-- ==== Sys2Proof/Word.lean ====
section
/-! DEFINITION. The value types of the block: bytes, 32-bit identifiers and the checksum table's shape. Every quantity of the
block is an unsigned bit vector (spec/00_scope.md section 5, rule R125). -/

namespace Sys2Proof

/-- One byte: a frame byte, a table entry, a running value (rules R24, R25, R11). -/
abbrev Byte := BitVec 8

/-- A `network_id` or a `device_id`: 32 bits unsigned (rule R38). -/
abbrev Id32 := BitVec 32

/-- A frame: exactly 11 bytes at offsets 0 to 10 (rules R24, R35; the length is the type's, rule R30). -/
abbrev Frame := Vector Byte 11

/-- A checksum table: exactly 256 entries of 8 bits (rules R18, R25). -/
abbrev CrcTable := Vector Byte 256

end Sys2Proof
end

