-- ==== Sys2Proof/Config.lean ====
section
/-! DEFINITION. What an implementation of the block fixes: the parameter table of spec/00_scope.md rule R8. The widths are the
spec's own choice (decisions D8, D9); the values the spec leaves OPEN (D10, D17) are opaque constants without a body. -/

namespace Sys2Proof

/-- `TIME_W`: the width of the arrival time `t`, of `DS.last` and of `TIMEOUT` (rule R8, decision D8). -/
abbrev Config.timeW : Nat := 32

/-- `COUNT_W`: the width of `DS.count` and of `MIN_REPEATS` (rule R8, decision D9). -/
abbrev Config.countW : Nat := 16

/-- `HAS_DEDUP`: the third unit is present (rule R5, decision D11). The decoder reads it: without the unit the operations DEDUP
and RECV drop out of the operation set. -/
abbrev Config.hasDedup : Bool := true

/-- `TIMEOUT` as the implementation configures it: OPEN, any value (rules R8, R17; decision D10; log entry 2). No body: nothing
can be proved of its value. -/
opaque Config.timeout : BitVec Config.timeW

/-- `MIN_REPEATS` as the implementation configures it, counted from 2, the least legal value: OPEN (rules R8, R86; decision D10;
log entry 2). Every number of this type gives a legal threshold and every legal threshold is given by one. No body: nothing
can be proved of its value. -/
opaque Config.minRepeatsAboveTwo : Fin 65534

/-- The eight names the document lists for the payload's bits (rule R39). -/
inductive PayloadBitName
  | pairing | test | alarm | warning | batteryLow | mute | reservedA | reservedB
deriving DecidableEq, Repr, Inhabited

/-- `PAYLOAD_BIT_MAP`: which payload bit carries which name. OPEN, and read by no rule of the spec and so by no meaning of this
model (rules R39, R43; decision D17; log entry 3). -/
opaque Config.payloadBitMap : Fin 8 → PayloadBitName

/-- The arrival time `t`: `TIME_W` bits unsigned, in any fixed unit (rule R108). -/
abbrev Time := BitVec Config.timeW

/-- A repeat count: `COUNT_W` bits unsigned (rule R12). -/
abbrev Count := BitVec Config.countW

end Sys2Proof
end

