-- ==== Sys2Proof/Syntax.lean ====
section
/-! DEFINITION. The operations of the block as terms: one constructor per row of spec/opcode_table.json, and the words in which a
host issues them (spec/30_encoding.md section 3, spec/95_test_vectors.md section 4). -/

namespace Sys2Proof

/-- A Message: the triple of rule R38. Every value of the triple is legal. -/
structure Message where
  networkId : Id32
  deviceId : Id32
  payload : Byte
deriving DecidableEq, Repr

/-- The operations of rule R45, and the wire format FRAME, which is a row of the table but no operation. -/
inductive Instr
  /-- CRC8: the checksum of a span of any length (rules R46, R63). -/
  | crc8 (span : List Byte)
  /-- ENCODE: build the frame of a Message; the operand order is the document's (rules R46, R53). -/
  | encode (networkId deviceId : Id32) (payload : Byte)
  /-- DECODE: extract and validate the Message of a frame (rules R46, R55). -/
  | decode (frame : Frame)
  /-- DEDUP: present one Message, with its arrival time, to the deduplicator (rules R46, R73). -/
  | dedup (m : Message) (t : Time)
  /-- RECV: decode and, if the frame is valid, deduplicate (rules R46, R87). -/
  | recv (frame : Frame) (t : Time)
  /-- FRAME: the wire frame of rule R35 standing alone: a data format, not an operation. -/
  | frame (bytes : Frame)
deriving DecidableEq, Repr

/-- The five operations, the counterparts of opcodes (rule R45). -/
inductive Opcode
  | crc8 | encode | decode | dedup | recv
deriving DecidableEq, Repr

/-- What a host can put before the block, as raw words. An operation is its 3-bit code followed by its operand bytes (the
serialisation of spec/95_test_vectors.md section 4; log entry 4); a wire frame standing alone is bytes without a code. -/
inductive HostWord
  | operation (op : BitVec 3) (operands : List Byte)
  | wire (bytes : List Byte)
deriving DecidableEq, Repr

/-- An input of the block: a word the host issues, or the reset input, which is not an operation (rules R7, R111). -/
inductive HostInput
  | word (w : HostWord)
  | reset
deriving DecidableEq, Repr

end Sys2Proof
end

