-- ==== Sys2Proof/Machine/Operands.lean ====
section
/-! DEFINITION. Operand forms: operation codes, operand lengths, byte order, and the frame as a sequence of bytes
(spec/20_memory.md sections 1 to 3, spec/30_encoding.md rules R45, R46). -/

namespace Sys2Proof.Machine

/-- `be32(v)`: the four bytes of a 32-bit value, most significant first (spec/00_scope.md section 5, rule R27). -/
def be32 (v : BitVec 32) : List Byte :=
  [v.extractLsb' 24 8, v.extractLsb' 16 8, v.extractLsb' 8 8, v.extractLsb' 0 8]

/-- `unbe32(b)`: the 32-bit value whose most significant byte is at the lowest offset (rules R27, R36). -/
def unbe32 (b0 b1 b2 b3 : Byte) : BitVec 32 :=
  b0 ++ b1 ++ b2 ++ b3

/-- The bytes of a frame in the order in which they cross the block's boundary: offset 0 first (rule R28). -/
def frameBytes (f : Frame) : List Byte :=
  f.toList

/-- A byte sequence as a frame operand: exactly 11 bytes, anything else is no operand (rule R30). -/
def frameOfBytes (bs : List Byte) : Option Frame :=
  if h : bs.length = 11 then some ⟨⟨bs⟩, h⟩ else none

/-- The operation codes of rule R45. -/
def opcodeBits : Opcode → BitVec 3
  | .crc8 => 1
  | .encode => 2
  | .decode => 3
  | .dedup => 4
  | .recv => 5

/-- The operation a 3-bit code selects; `000`, `110` and `111` select none (rules R45, R49). Without the third unit `100` and
`101` select none either (rule R5). -/
def opcodeOfBits (op : BitVec 3) : Option Opcode :=
  match op.toNat with
  | 1 => some .crc8
  | 2 => some .encode
  | 3 => some .decode
  | 4 => if Config.hasDedup then some .dedup else none
  | 5 => if Config.hasDedup then some .recv else none
  | _ => none

/-- How many operand bytes an operation takes (rule R46 with the serialisation of spec/95_test_vectors.md section 4): none
means any number, the span of CRC8 (rule R30). -/
def operandLength : Opcode → Option Nat
  | .crc8 => none
  | .encode => some 9
  | .decode => some 11
  | .dedup => some 13
  | .recv => some 15

/-- Whether `n` operand bytes fit the operation (rules R30, R46). -/
def operandLengthOk (o : Opcode) (n : Nat) : Bool :=
  match operandLength o with
  | none => true
  | some k => n == k

end Sys2Proof.Machine
end

