-- ==== Sys2Proof/WellFormed.lean ====
section
/-! DEFINITION. The checks at the model's boundary (rule R103): of a host's word, of an instruction, of a configuration. -/

namespace Sys2Proof

open Sys2Proof.Machine

/-- A host's word is well formed when its code selects an operation and its operand bytes are as many as the operation takes, or
when it is a bare wire frame of 11 bytes (rules R30, R35, R46, R49). -/
def HostWord.wellFormed : HostWord → Bool
  | .operation op operands =>
    match opcodeOfBits op with
    | some o => operandLengthOk o operands.length
    | none => false
  | .wire bytes => (frameOfBytes bytes).isSome

/-- Every instruction term is well formed: its operands' types carry the whole check. A span may have any length (rule R30),
every Message is legal (rule R38), a frame has 11 bytes by type (rule R30), every `t` is legal (rule R108). -/
def Instr.wellFormed : Instr → Bool
  | .crc8 _ => true
  | .encode _ _ _ => true
  | .decode _ => true
  | .dedup _ _ => true
  | .recv _ _ => true
  | .frame _ => true

/-- A configuration, as plain numbers, is well formed when `TIMEOUT` fits `TIME_W` bits and `MIN_REPEATS` lies in its legal range,
2 to 2^`COUNT_W` − 1 (rules R8, R86; decision D10). The model refuses every other one (93_implementation_defined U3). -/
def configurationWellFormed (timeout minRepeats : Nat) : Bool :=
  decide (timeout < 2 ^ Config.timeW) && decide (2 ≤ minRepeats) && decide (minRepeats < 2 ^ Config.countW)

end Sys2Proof
end

