-- ==== Sys2Proof/Decode.lean ====
section
/-! DEFINITION. The decoder from a host's words to instructions, total and rejecting by name, and the encoder back
(spec/30_encoding.md section 3, spec/95_test_vectors.md section 4). -/

namespace Sys2Proof

open Sys2Proof.Machine

/-- Why a host's word is no instruction: the boundary refusals of rule R103 that concern a word. -/
inductive DecodeError
  /-- The code `000`, `110` or `111` (rule R49). -/
  | reservedOperation (op : BitVec 3)
  /-- The operand bytes are not as many as the operation or the frame takes (rule R30). -/
  | wrongLength (got : Nat)
deriving DecidableEq, Repr

/-- Operands of ENCODE: `network_id`, `device_id`, `payload` (rule R46). -/
def decodeEncode : List Byte → Except DecodeError Instr
  | [n3, n2, n1, n0, d3, d2, d1, d0, p] => .ok (.encode (unbe32 n3 n2 n1 n0) (unbe32 d3 d2 d1 d0) p)
  | bs => .error (.wrongLength bs.length)

/-- Operand of DECODE: the 11 bytes of a frame (rule R46). -/
def decodeDecode (bs : List Byte) : Except DecodeError Instr :=
  match frameOfBytes bs with
  | some f => .ok (.decode f)
  | none => .error (.wrongLength bs.length)

/-- Operands of DEDUP: `network_id`, `device_id`, `payload`, `t` (rule R46). -/
def decodeDedup : List Byte → Except DecodeError Instr
  | [n3, n2, n1, n0, d3, d2, d1, d0, p, t3, t2, t1, t0] =>
    .ok (.dedup ⟨unbe32 n3 n2 n1 n0, unbe32 d3 d2 d1 d0, p⟩ (unbe32 t3 t2 t1 t0))
  | bs => .error (.wrongLength bs.length)

/-- Operands of RECV: the 11 bytes of a frame, `t` (rule R46). -/
def decodeRecv (bs : List Byte) : Except DecodeError Instr :=
  match frameOfBytes (bs.take 11), bs.drop 11 with
  | some f, [t3, t2, t1, t0] => .ok (.recv f (unbe32 t3 t2 t1 t0))
  | _, _ => .error (.wrongLength bs.length)

/-- A wire frame standing alone: the FRAME row of the table (rule R35). -/
def decodeWire (bs : List Byte) : Except DecodeError Instr :=
  match frameOfBytes bs with
  | some f => .ok (.frame f)
  | none => .error (.wrongLength bs.length)

/-- The instruction a host's word stands for, or the name of the reason it stands for none. -/
def decode : HostWord → Except DecodeError Instr
  | .operation op operands =>
    match opcodeOfBits op with
    | some .crc8 => .ok (.crc8 operands)
    | some .encode => decodeEncode operands
    | some .decode => decodeDecode operands
    | some .dedup => decodeDedup operands
    | some .recv => decodeRecv operands
    | none => .error (.reservedOperation op)
  | .wire bytes => decodeWire bytes

/-- The bytes of a Message as operands of DEDUP: `network_id`, `device_id`, `payload`, most significant byte first. -/
def messageBytes (m : Message) : List Byte :=
  be32 m.networkId ++ be32 m.deviceId ++ [m.payload]

/-- The word a host issues for an instruction: the code of rule R45, then the operand bytes in the order of rule R46, 32-bit
operands and `t` most significant byte first (spec/95_test_vectors.md section 4). -/
def encode : Instr → HostWord
  | .crc8 span => .operation (opcodeBits .crc8) span
  | .encode n d p => .operation (opcodeBits .encode) (be32 n ++ be32 d ++ [p])
  | .decode f => .operation (opcodeBits .decode) (frameBytes f)
  | .dedup m t => .operation (opcodeBits .dedup) (messageBytes m ++ be32 t)
  | .recv f t => .operation (opcodeBits .recv) (frameBytes f ++ be32 t)
  | .frame f => .wire (frameBytes f)

/-- Byte `k` of a table word of `nbits` bits, the first byte in bits 7 to 0; every bit above `nbits` is 0. -/
def tableByte (nbits w k : Nat) : Byte :=
  BitVec.ofNat 8 ((w % 2 ^ nbits) >>> (8 * k))

/-- The `n` bytes of a table word from byte `k` on. -/
def tableBytes (nbits w : Nat) : Nat → Nat → List Byte
  | _, 0 => []
  | k, n + 1 => tableByte nbits w k :: tableBytes nbits w (k + 1) n

/-- How many operand bytes follow the first byte of a table word: as many as the word has, and at least as many as the operation
takes (the missing ones are zeros). -/
def tableOperandCount (nbits : Nat) (op : BitVec 3) : Nat :=
  let given := nbits / 8 - 1
  match opcodeOfBits op with
  | some o => match operandLength o with
    | some n => max n given
    | none => given
  | none => given

/-- A word of spec/opcode_table.json as the host would issue it. The FRAME row alone has 88 bits: its word is the 11 bytes of a
wire frame. Every other row gives the three bits of the operation code, bits 2 to 0 of the first byte, and operand bytes follow
that byte (log entry 4). -/
def hostWordOfTable (nbits w : Nat) : HostWord :=
  if nbits = 88 then .wire (tableBytes nbits w 0 11)
  else
    let op : BitVec 3 := BitVec.ofNat 3 (w % 2 ^ nbits)
    .operation op (tableBytes nbits w 1 (tableOperandCount nbits op))

/-- The instruction the decoder reads from a word of the opcode table; none where it refuses. -/
def decodeTableWord (nbits w : Nat) : Option Instr :=
  match decode (hostWordOfTable nbits w) with
  | .ok i => some i
  | .error _ => none

end Sys2Proof
end

