-- ==== Sys2Proof/Machine/State.lean ====
section
/-! DEFINITION. The state of the block as plain data (spec/10_state.md), its parameters (spec/00_scope.md rule R8), the outputs of
a step (rules R20, R47), the reset state (rules R19, R112) and the reasons a step can stop (rule R103). -/

namespace Sys2Proof.Machine

/-- The two error kinds of decoding, the block's counterpart of synchronous exceptions (rule R97). -/
inductive FrameError
  /-- `FrameError::PayloadMismatch`: the complement check failed (rule R98). -/
  | payloadMismatch
  /-- `FrameError::ChecksumMismatch`: the complement check passed and the checksum check failed (rule R99). -/
  | checksumMismatch
deriving DecidableEq, Repr

/-- The `status` result of DECODE and RECV: three values, the fourth code is never produced (rule R48). -/
inductive Status
  | ok | payloadMismatch | checksumMismatch
deriving DecidableEq, Repr

/-- The event a DEDUP or RECV step emits: three raw fields, no label and no topic (rules R52, R79). -/
structure Event where
  networkId : Id32
  deviceId : Id32
  payload : Byte
deriving DecidableEq, Repr

/-- What one step delivers to the host. These are outputs of the step and no registers: every step writes all of them anew and
no meaning reads them (rule R20; log entry 5). An output the operation does not have, or has only under a condition that did
not hold, is absent (rule R47; 93_implementation_defined U9, U10). -/
structure Outputs where
  /-- `crc` of CRC8. -/
  crc : Option Byte := none
  /-- `frame` of ENCODE. -/
  frame : Option Frame := none
  /-- `status` of DECODE and RECV. -/
  status : Option Status := none
  /-- `m` of DECODE, present only with status `OK`. -/
  message : Option Message := none
  /-- The event of DEDUP and RECV: present exactly when `emit = 1`. -/
  event : Option Event := none
deriving DecidableEq, Repr

/-- DedupState, the complete architectural state of the block: one slot (rules R9, R12, R16). The widths are arguments, so that a
vector of the spec with another `COUNT_W` can be checked; the machine uses those of `Config`. -/
structure DedupState (timeW countW : Nat) where
  /-- `DS.valid`: false is the document's "empty/sentinel". -/
  valid : Bool
  /-- `DS.net`. -/
  net : Id32
  /-- `DS.dev`. -/
  dev : Id32
  /-- `DS.pay`. -/
  pay : Byte
  /-- `DS.count`: the repeat counter. -/
  count : BitVec countW
  /-- `DS.last`: the arrival time of the most recent observation of the tracked Message. -/
  last : BitVec timeW
deriving DecidableEq, Repr

/-- The empty DedupState (rules R14, R19, R112). -/
def DedupState.empty (timeW countW : Nat) : DedupState timeW countW :=
  { valid := false, net := 0, dev := 0, pay := 0, count := 0, last := 0 }

/-- The parameters of a run: the checksum table and the two configuration inputs (rules R8, R17, R18). No operation and no
reset writes them. A threshold outside its legal range cannot be written down: the model refuses such a configuration
(rule R86 (a); decision D10; log entry 6). -/
structure Parameters (timeW countW : Nat) where
  /-- `CRC_TABLE`. -/
  crcTable : CrcTable
  /-- `TIMEOUT`, the dedup window; every value is legal. -/
  timeout : BitVec timeW
  /-- `MIN_REPEATS`, the repeat threshold. -/
  minRepeats : BitVec countW
  /-- The legal range of `MIN_REPEATS` starts at 2 (rule R86). -/
  legal : 2 ≤ minRepeats.toNat := by decide
deriving DecidableEq, Repr

/-- The state of the model: the block's architectural state `ds`, the parameters of the run, the host's inputs still to be
presented, and the outputs of the step just taken. -/
structure State where
  /-- DedupState: all the state the spec gives the block (rule R9). -/
  ds : DedupState Config.timeW Config.countW
  /-- The parameters of the run (rules R8, R17, R18). -/
  params : Parameters Config.timeW Config.countW
  /-- The MODEL's own: what the host will put before the block, in the order it does so (rules R7, R32, R50; log entry 7). -/
  pending : List HostInput
  /-- The MODEL's own: the outputs of the last step (rule R20; log entry 5). -/
  out : Outputs
deriving DecidableEq, Repr

/-- The parameters of an unconstrained implementation: the default table, and the OPEN values of rule R8 as opaque constants
(log entries 1 and 2). -/
def Parameters.configured : Parameters Config.timeW Config.countW where
  crcTable := defaultCrcTable
  timeout := Config.timeout
  minRepeats := BitVec.ofNat Config.countW (Config.minRepeatsAboveTwo.val + 2)
  legal := by
    have := Config.minRepeatsAboveTwo.isLt
    simp only [BitVec.toNat_ofNat]
    change 2 ≤ (Config.minRepeatsAboveTwo.val + 2) % 65536
    omega

/-- The machine right after reset (rules R19, R112, R113): DedupState empty, no output delivered, nothing presented yet. -/
def State.reset : State where
  ds := DedupState.empty _ _
  params := Parameters.configured
  pending := []
  out := {}

/-- A step never stops with a fault. Every operation is total on operands of its stated types (rule R103); the two error kinds of
decoding are results of a step that goes on (rules R100, R102). So there is no constructor. -/
inductive Fault
deriving DecidableEq, Repr

/-- Why the model gives an input no step (rule R103). Each is safe: nothing can be proved of what the block does then. -/
inductive Refusal
  /-- Raised by an arm of `exec` whose instruction has no meaning yet; no arm raises it now. Safe. -/
  | notModelled (mnemonic : String)
  /-- Raised by `step` for a word with a reserved operation code (rule R49, decision D16). Safe. -/
  | reservedOperation (op : BitVec 3)
  /-- Raised by `step` for a word whose operand bytes are not as many as its operation, or a frame, takes (rule R30, decision
  D19). Safe. -/
  | wrongOperandLength (got : Nat)
  /-- Raised by `execFrame`: a wire frame standing alone is a data format and selects no operation (rule R45 with the table's FRAME
  row; log entry 8). Safe. -/
  | frameIsNotAnOperation
  /-- Raised by `step` when the host presents nothing: the block never acts on its own (rule R7; log entry 7). Safe. -/
  | nothingPresented
deriving DecidableEq, Repr

end Sys2Proof.Machine
end

