-- ==== Sys2Proof/Machine/Flags.lean ====
section
/-! DEFINITION. The block's flags: the status and emit results of a step and their codes, and the threshold test that sets emit.
Nothing stores them (rule R20). -/

namespace Sys2Proof.Machine

/-- The status codes of rule R48; code 3 is never produced. -/
def statusCode : Status → BitVec 2
  | .ok => 0
  | .payloadMismatch => 1
  | .checksumMismatch => 2

/-- The status an error ends an operation with (rules R97, R100). -/
def statusOfError : FrameError → Status
  | .payloadMismatch => .payloadMismatch
  | .checksumMismatch => .checksumMismatch

/-- The `emit` result of a step (rules R20, R47): 1 exactly when an event is delivered. -/
def emitBit (o : Outputs) : Bool :=
  o.event.isSome

/-- The threshold test, on the count before the increment: `DS.count = MIN_REPEATS − 1` (rule R77; rule R125 row 10). -/
def reachesThreshold {countW : Nat} (minRepeats count : BitVec countW) : Bool :=
  count == minRepeats - 1#countW

end Sys2Proof.Machine
end

