-- ==== Sys2Proof/Machine/Ops.lean ====
section
/-! DEFINITION. The operations the meanings share: checksum, codec, deduplicator, delivering results, raising a frame error (the
block's exception, rule R100) and reset (rule R112). -/

namespace Sys2Proof.Machine

/-! ### Checksum Engine (spec/41_checksum_engine.md) -/

/-- `T[i]`: every 8-bit index is in range (rule R25). -/
def tableEntry (T : CrcTable) (i : Byte) : Byte :=
  T[i.toNat]'i.isLt

/-- `crc8_step(rv, byte) = T[byte ^ rv]` (rule R64). -/
def crc8Step (T : CrcTable) (rv byte : Byte) : Byte :=
  tableEntry T (byte ^^^ rv)

/-- `crc8(span)`: the left fold of the step from `CRC_INIT`, in increasing offset order (rules R63, R64). -/
def crc8 (T : CrcTable) (span : List Byte) : Byte :=
  span.foldl (crc8Step T) crcInit

/-- One of the eight iterations of the polynomial loop: shift right, and exclusive OR with 0x8C when the bit shifted out is 1
(rule R68; rule R125 row 12). -/
def polyIteration (c : Byte) : Byte :=
  if c.getLsbD 0 then (c >>> 1) ^^^ 0x8C else c >>> 1

/-- The polynomial form of a table entry: eight iterations (rule R68). No meaning uses it: the machine's engine is the table
(93_implementation_defined U2). -/
def polyEntry (i : Byte) : Byte :=
  polyIteration (polyIteration (polyIteration (polyIteration
    (polyIteration (polyIteration (polyIteration (polyIteration i)))))))

/-! ### Frame Codec (spec/40_frame_codec.md) -/

/-- `b[0..6)`: the span the checksum covers (rules R8, R24). -/
def checksumSpan (f : Frame) : List Byte :=
  [f[0], f[1], f[2], f[3], f[4], f[5]]

/-- The complement check `b[4] ^ b[5] = 0xFF` (rules R40, R98). -/
def complementOk (f : Frame) : Bool :=
  (f[4] ^^^ f[5]) == 0xFF

/-- The checksum check `crc8(b[0..6)) = b[6]` (rules R40, R99). -/
def checksumOk (T : CrcTable) (f : Frame) : Bool :=
  crc8 T (checksumSpan f) == f[6]

/-- Field extraction (rule R36). -/
def messageOfFrame (f : Frame) : Message where
  networkId := unbe32 f[0] f[1] f[2] f[3]
  deviceId := unbe32 f[7] f[8] f[9] f[10]
  payload := f[4]

/-- The result of decoding: a Message or an error, never both (rule R47). -/
inductive DecodeResult
  | message (m : Message)
  | error (e : FrameError)
deriving DecidableEq, Repr

/-- DECODE as a function of the frame and the table: the complement check first, the checksum check only if it passed
(rules R55, R56; 90_conflicts C1). -/
def decodeFrame (T : CrcTable) (f : Frame) : DecodeResult :=
  if complementOk f then
    if checksumOk T f then .message (messageOfFrame f) else .error .checksumMismatch
  else .error .payloadMismatch

/-- ENCODE as a function of the Message's fields and the table: offsets 0 to 5 first, then the checksum over them, then the
`device_id` (rules R37, R53). -/
def buildFrame (T : CrcTable) (networkId deviceId : Id32) (payload : Byte) : Frame :=
  let n3 := networkId.extractLsb' 24 8
  let n2 := networkId.extractLsb' 16 8
  let n1 := networkId.extractLsb' 8 8
  let n0 := networkId.extractLsb' 0 8
  let npayload := payload ^^^ 0xFF
  let checksum := crc8 T [n3, n2, n1, n0, payload, npayload]
  #v[n3, n2, n1, n0, payload, npayload, checksum,
    deviceId.extractLsb' 24 8, deviceId.extractLsb' 16 8, deviceId.extractLsb' 8 8, deviceId.extractLsb' 0 8]

/-! ### Receive Deduplicator (spec/42_receive_dedup.md) -/

/-- `gap = (t − DS.last) mod 2^TIME_W` (rule R75). -/
def arrivalGap {timeW countW : Nat} (ds : DedupState timeW countW) (t : BitVec timeW) : BitVec timeW :=
  t - ds.last

/-- The tracked identity equals the Message in all 72 bits (rule R74; rule R125 row 9). -/
def sameIdentity {timeW countW : Nat} (ds : DedupState timeW countW) (m : Message) : Bool :=
  m.networkId == ds.net && m.deviceId == ds.dev && m.payload == ds.pay

/-- The distinctness test; the window is closed at its far end (rule R74, decision D25). -/
def isSameEvent {timeW countW : Nat} (timeout : BitVec timeW) (ds : DedupState timeW countW) (m : Message)
    (t : BitVec timeW) : Bool :=
  ds.valid && sameIdentity ds m && decide (arrivalGap ds t ≤ timeout)

/-- `min(DS.count + 1, 2^COUNT_W − 1)`, computed exactly and then narrowed (rule R81). -/
def saturatingIncrement {countW : Nat} (count : BitVec countW) : BitVec countW :=
  BitVec.ofNat countW (min (count.toNat + 1) (2 ^ countW - 1))

/-- The same-event transition on DedupState (rule R76). -/
def sameEventTransition {timeW countW : Nat} (ds : DedupState timeW countW) (t : BitVec timeW) : DedupState timeW countW :=
  { ds with count := saturatingIncrement ds.count, last := t }

/-- The new-event transition: the tracked Message becomes `m`, seen once, at `t` (rule R78). -/
def newEventTransition {timeW countW : Nat} (m : Message) (t : BitVec timeW) : DedupState timeW countW where
  valid := true
  net := m.networkId
  dev := m.deviceId
  pay := m.payload
  count := 1
  last := t

/-- The event a same-event transition emits carries the tracked identity (rule R79). -/
def trackedEvent {timeW countW : Nat} (ds : DedupState timeW countW) : Event where
  networkId := ds.net
  deviceId := ds.dev
  payload := ds.pay

/-- One step of the deduplicator: the new DedupState and the event, present exactly when `emit = 1` (rule R73). -/
def dedupStep {timeW countW : Nat} (P : Parameters timeW countW) (ds : DedupState timeW countW) (m : Message)
    (t : BitVec timeW) : DedupState timeW countW × Option Event :=
  if isSameEvent P.timeout ds m t then
    (sameEventTransition ds t,
      if reachesThreshold P.minRepeats ds.count then some (trackedEvent ds) else none)
  else (newEventTransition m t, none)

/-! ### Delivering results, raising an error, reset -/

/-- A step delivers its outputs, all of them anew, and changes nothing else (rule R20). -/
def State.deliver (s : State) (o : Outputs) : State :=
  { s with out := o }

/-- TAKING AN EXCEPTION. A frame error ends the operation: its status is the error's code, no Message and no event are
delivered, nothing is saved and nothing else changes (rule R100). There is no handler and so no return: the next operation
runs from the state this leaves (rule R102). -/
def State.raiseFrameError (s : State) (e : FrameError) : State :=
  s.deliver { status := some (statusOfError e) }

/-- The reset input: DedupState is emptied and no output stands; parameters are constants and the host's further inputs are its
own (rules R111, R112). -/
def State.applyReset (s : State) : State :=
  { s with ds := DedupState.empty _ _, out := {} }

end Sys2Proof.Machine
end

