-- ==== Sys2Proof/Machine/Boundary.lean ====
section
/-! DEFINITION. The model's boundary: how a refused word is named, how a configuration is taken in, and what the host's next word
is (rules R30, R49, R86, R103). -/

namespace Sys2Proof.Machine

/-- The refusal of a word that stands for no instruction (rule R103). -/
def refusalOfDecodeError : DecodeError → Refusal
  | .reservedOperation op => .reservedOperation op
  | .wrongLength n => .wrongOperandLength n

/-- A configuration given as plain numbers becomes parameters of a run exactly when it is well formed; the model refuses every
other one (rule R86 (a), decision D10). -/
def parametersOf (T : CrcTable) (timeout minRepeats : Nat) :
    Option (Parameters Config.timeW Config.countW) :=
  if configurationWellFormed timeout minRepeats then
    if h : 2 ≤ (BitVec.ofNat Config.countW minRepeats).toNat then
      some { crcTable := T, timeout := BitVec.ofNat _ timeout, minRepeats := BitVec.ofNat _ minRepeats, legal := h }
    else none
  else none

/-- The word the host puts next in place of the one it would have put: the rest of its inputs stays. -/
def replaceNextInput (pending : List HostInput) (w : HostWord) : List HostInput :=
  .word w :: pending.tail

end Sys2Proof.Machine
end

