-- ==== Sys2Proof/Machine/ChecksumEngine.lean ====
section
/-! DEFINITION. The Checksum Engine's operation, CRC8 (spec/41_checksum_engine.md). -/

namespace Sys2Proof.Machine

/-- CRC8: the checksum of the span; it reads no state but the constant table and writes none (rule R63). -/
def execCrc8 (span : List Byte) (s : State) : Host.Outcome State Fault Refusal :=
  .next (s.deliver { crc := some (crc8 s.params.crcTable span) })

end Sys2Proof.Machine
end

