-- ==== Sys2Proof/Machine/Deduplicator.lean ====
section
/-! DEFINITION. The Receive Deduplicator's operation, DEDUP (spec/42_receive_dedup.md). -/

namespace Sys2Proof.Machine

/-- DEDUP: one transition of the deduplicator; total (rule R73). -/
def execDedup (m : Message) (t : Time) (s : State) : Host.Outcome State Fault Refusal :=
  let r := dedupStep s.params s.ds m t
  .next ({ s with ds := r.1 }.deliver { event := r.2 })

end Sys2Proof.Machine
end

