-- ==== Sys2Proof/Machine/FrameCodec.lean ====
section
/-! DEFINITION. The Frame Codec's operations, ENCODE and DECODE, and the wire format FRAME (spec/40_frame_codec.md, rule R35). -/

namespace Sys2Proof.Machine

/-- ENCODE: the frame of the Message; no failure mode (rules R53, R54). -/
def execEncode (networkId deviceId : Id32) (payload : Byte) (s : State) : Host.Outcome State Fault Refusal :=
  .next (s.deliver { frame := some (buildFrame s.params.crcTable networkId deviceId payload) })

/-- DECODE: the Message of a valid frame, or the frame error of the first check that fails (rules R55, R56, R57). -/
def execDecode (f : Frame) (s : State) : Host.Outcome State Fault Refusal :=
  match decodeFrame s.params.crcTable f with
  | .message m => .next (s.deliver { status := some .ok, message := some m })
  | .error e => .next (s.raiseFrameError e)

/-- FRAME: the table's row for the wire format, "data format, not an operation". The operation set is the five operations of rule
R45 and a model gives a step to those only (rule R49), so a frame standing alone has none. -/
def execFrame (_bytes : Frame) (_s : State) : Host.Outcome State Fault Refusal :=
  .refused .frameIsNotAnOperation

end Sys2Proof.Machine
end

