-- ==== Sys2Proof/Machine/ReceivePath.lean ====
section
/-! DEFINITION. The receive path, RECV (spec/43_paths_and_neighbours.md section 1). -/

namespace Sys2Proof.Machine

/-- RECV: decode, then, on `OK` only, deduplicate, as one atomic operation; a frame error leaves DedupState alone
(rules R87, R88). -/
def execRecv (f : Frame) (t : Time) (s : State) : Host.Outcome State Fault Refusal :=
  match decodeFrame s.params.crcTable f with
  | .message m =>
    let r := dedupStep s.params s.ds m t
    .next ({ s with ds := r.1 }.deliver { status := some .ok, event := r.2 })
  | .error e => .next (s.raiseFrameError e)

end Sys2Proof.Machine
end

