-- ==== Sys2Proof/Machine/Dispatch.lean ====
section
/-! DEFINITION. Which meaning each instruction has: one arm per constructor of Instr. -/

namespace Sys2Proof.Machine

def exec (i : Instr) (s : State) : Host.Outcome State Fault Refusal :=
  match i with
  | .crc8 span => Sys2Proof.Machine.execCrc8 span s
  | .encode n d p => Sys2Proof.Machine.execEncode n d p s
  | .decode f => Sys2Proof.Machine.execDecode f s
  | .dedup m t => Sys2Proof.Machine.execDedup m t s
  | .recv f t => Sys2Proof.Machine.execRecv f t s
  | .frame f => Sys2Proof.Machine.execFrame f s

end Sys2Proof.Machine
end

