-- ==== Sys2Proof/Machine/Step.lean ====
section
/-! DEFINITION. One step: the host's next input, taken whole (rules R6, R7, R32). -/

namespace Sys2Proof.Machine

/-- One step of the block. The next input of the host is used up; a word that stands for an operation is executed, the reset
input resets, and a word that stands for none, or no input at all, has no step (rules R6, R7, R49, R111). -/
def step (s : State) : Host.Outcome State Fault Refusal :=
  match s.pending with
  | [] => .refused .nothingPresented
  | .reset :: rest => .next (State.applyReset { s with pending := rest })
  | .word w :: rest =>
    match decode w with
    | .ok i => exec i { s with pending := rest }
    | .error e => .refused (refusalOfDecodeError e)

/-- `s` with the instruction of a table word as the input the host presents next (log entries 4 and 7). -/
def State.withFetchWord (s : State) (nbits w : Nat) : State :=
  { s with pending := replaceNextInput s.pending (hostWordOfTable nbits w) }

end Sys2Proof.Machine
end

