-- ==== Sys2Proof/Safety.lean ====
section
/-! DEFINITION. What counts as a sound state and a sound run, in the terms the statements use: the invariants of DedupState (rule
R15), its conceptual states (rule R80), sequences of operations (rule R32), bursts (rules R82 to R85) and the deduplicator with an
unbounded counter (rule R81). -/

namespace Sys2Proof.Machine

/-- Invariants (a) and (c) of rule R15: a tracked Message has been seen at least once, and an empty slot is all zero. -/
def DedupState.Inv {timeW countW : Nat} (ds : DedupState timeW countW) : Prop :=
  (ds.valid = true → 1 ≤ ds.count.toNat) ∧ (ds.valid = false → ds = DedupState.empty timeW countW)

/-- The delivered outputs fit the state the step left: an event carries the tracked identity, stands only where the count has just
become `MIN_REPEATS` and never beside an error status; a Message stands only beside status `OK` (rules R47, R77, R79, R101). -/
def State.OutputsSound (s : State) : Prop :=
  (∀ e, s.out.event = some e →
    s.ds.valid = true ∧ e = trackedEvent s.ds ∧ s.ds.count = s.params.minRepeats
      ∧ (s.out.status = none ∨ s.out.status = some .ok)) ∧
  (∀ m, s.out.message = some m → s.out.status = some .ok)

/-- The invariant of the machine. -/
def State.Inv (s : State) : Prop :=
  s.ds.Inv ∧ s.OutputsSound

/-- The conceptual states of rule R80. -/
inductive Phase
  | empty | belowThreshold | atOrAboveThreshold
deriving DecidableEq, Repr

/-- The conceptual state a DedupState is in (rule R80). -/
def phaseOf {timeW countW : Nat} (minRepeats : BitVec countW) (ds : DedupState timeW countW) : Phase :=
  if ds.valid then
    if ds.count.toNat < minRepeats.toNat then .belowThreshold else .atOrAboveThreshold
  else .empty

/-- A word that stands for one of the five operations: its code and as many operand bytes as the operation takes in the
serialisation of spec/95_test_vectors.md section 4 (rules R45, R46; the form of a word is log entry 4's, and a bare wire frame is none,
log entry 8). -/
def IsOperationWord : HostWord → Prop
  | .operation op operands =>
    op = 1 ∨ (op = 2 ∧ operands.length = 9) ∨ (op = 3 ∧ operands.length = 11) ∨ (op = 4 ∧ operands.length = 13)
      ∨ (op = 5 ∧ operands.length = 15)
  | .wire _ => False

/-- A valid frame under a checksum table: both checks of rule R40. -/
def ValidFrame (T : CrcTable) (f : Frame) : Prop :=
  f[4] ^^^ f[5] = 0xFF ∧ crc8 T [f[0], f[1], f[2], f[3], f[4], f[5]] = f[6]

/-- The distinctness test as rule R74 words it. -/
def SameEvent (s : State) (m : Message) (t : Time) : Prop :=
  s.ds.valid = true ∧ m.networkId = s.ds.net ∧ m.deviceId = s.ds.dev ∧ m.payload = s.ds.pay
    ∧ (t - s.ds.last).toNat ≤ s.params.timeout.toNat

/-- The state a new-event transition leaves: the Message tracked, seen once at `t`, nothing emitted (rule R78). -/
def afterNewEvent (s : State) (m : Message) (t : Time) : State :=
  { s with ds := { valid := true, net := m.networkId, dev := m.deviceId, pay := m.payload, count := 1, last := t }, out := {} }

/-- The state a same-event transition at `t` leaves: one more sighting, saturating, and the tracked identity emitted when the old
count was `MIN_REPEATS − 1` (rules R76, R77, R79, R81). -/
def afterSameEvent (s : State) (t : Time) : State :=
  { s with
    ds := { s.ds with count := BitVec.ofNat 16 (min (s.ds.count.toNat + 1) (2 ^ 16 - 1)), last := t }
    out := { event := if s.ds.count.toNat = s.params.minRepeats.toNat - 1
      then some ⟨s.ds.net, s.ds.dev, s.ds.pay⟩ else none } }

/-- Which steps of a stream emit when the count before it is `c` and nothing interrupts it: the one that makes it the threshold
(rules R77, R83). -/
def thresholdPattern (minRepeats c n : Nat) : List Bool :=
  (List.range n).map fun k => c + k + 1 == minRepeats

/-- The same bytes as a frame except at one offset. -/
def frameWith (f : Frame) (k : Fin 11) (b : Byte) : Frame :=
  f.set k b

/-- Running operations one after the other, each on the state the one before it left, collecting the outputs of each step; none
when some operation has no step (rule R32). -/
def runOperations : List Instr → State → Option (List Outputs × State)
  | [], s => some ([], s)
  | i :: rest, s =>
    match exec i s with
    | .next t => (runOperations rest t).map fun r => (t.out :: r.1, r.2)
    | .fault _ => none
    | .refused _ => none

/-- One Message presented at each of the times. -/
def presentAt (m : Message) (times : List Time) : List Instr :=
  times.map (Instr.dedup m)

/-- Each time is within the window of the one before it, the first within the window of `last` (rules R74, R76). -/
def WithinWindow (timeout : Time) : Time → List Time → Prop
  | _, [] => True
  | last, t :: rest => (t - last).toNat ≤ timeout.toNat ∧ WithinWindow timeout t rest

/-- Each Message differs from the one before it, the first from `m` (rule R85). -/
def EachDiffers : Message → List (Message × Time) → Prop
  | _, [] => True
  | m, (m', _) :: rest => m' ≠ m ∧ EachDiffers m' rest

/-- The last of a nonempty list of times, given as its first and the rest. -/
def lastTime : Time → List Time → Time
  | t, [] => t
  | _, t :: rest => lastTime t rest

/-- Whether an operation can leave no trace in DedupState: CRC8, ENCODE and DECODE always, RECV on a frame that fails a check
(rules R13, R88). -/
def leavesDedupStateAlone (T : CrcTable) : Instr → Bool
  | .crc8 _ => true
  | .encode _ _ _ => true
  | .decode _ => true
  | .dedup _ _ => false
  | .recv f _ => !(complementOk f && checksumOk T f)
  | .frame _ => true

/-- The deduplicator's record with an unbounded counter (rule R81). -/
structure WideDedup where
  valid : Bool
  net : Id32
  dev : Id32
  pay : Byte
  count : Nat
  last : Time
deriving DecidableEq, Repr

/-- A transition of the deduplicator with an unbounded counter: the new record and whether it emits (rules R73, R81). -/
def WideDedup.present (timeout : Time) (minRepeats : Nat) (d : WideDedup) (m : Message) (t : Time) : WideDedup × Bool :=
  if d.valid = true ∧ m.networkId = d.net ∧ m.deviceId = d.dev ∧ m.payload = d.pay ∧ (t - d.last).toNat ≤ timeout.toNat then
    ({ d with count := d.count + 1, last := t }, d.count + 1 == minRepeats)
  else ({ valid := true, net := m.networkId, dev := m.deviceId, pay := m.payload, count := 1, last := t }, false)

/-- The unbounded deduplicator over a sequence of arrivals: the emissions, one per arrival, and the final record. -/
def WideDedup.run (timeout : Time) (minRepeats : Nat) : WideDedup → List (Message × Time) → List Bool × WideDedup
  | d, [] => ([], d)
  | d, (m, t) :: rest =>
    let r := d.present timeout minRepeats m t
    let q := WideDedup.run timeout minRepeats r.1 rest
    (r.2 :: q.1, q.2)

/-- The record with an unbounded counter that agrees with a DedupState but for the count: the two counts agree until the narrow
one saturates (rule R81). -/
def WideDedup.Agrees (d : WideDedup) (ds : DedupState Config.timeW Config.countW) : Prop :=
  d.valid = ds.valid ∧ d.net = ds.net ∧ d.dev = ds.dev ∧ d.pay = ds.pay ∧ d.last = ds.last
    ∧ ds.count.toNat = min d.count (2 ^ Config.countW - 1)

end Sys2Proof.Machine
end

