-- ==== Sys2Proof/Certificates/Slice0/Obligations.lean ====
section
/-! DEFINITION. The statements about the model, from the numbered rules of spec/. `SameEvent`, `afterNewEvent`, `ValidFrame` and the
other words they use are those of Sys2Proof/Safety.lean. -/

open Sys2Proof Sys2Proof.Machine

/-! ### Words and steps -/

/-- Every instruction's word decodes to that instruction, with every operand at every value (rules R45, R46; the serialisation of
spec/95_test_vectors.md section 4, log entry 4). -/
def Obligations.DecodeAfterEncodeGivesInstruction : Prop :=
  ∀ i : Instr, i.wellFormed = true → decode (encode i) = .ok i

/-- A word the decoder accepts is well formed and is the word the encoder writes for what it decodes to: no bit of a word is
dropped and no two words share a meaning (rules R45, R46; log entry 4). -/
def Obligations.EncodeAfterDecodeGivesWord : Prop :=
  ∀ (w : HostWord) (i : Instr), decode w = .ok i → w.wellFormed = true ∧ encode i = w

/-- Words written out in spec/95_test_vectors.md section 4 (P1 lines 1 and 2, P2 line 1, P3 lines 1a and 1b) decode to the
operations they stand for (log entry 4). -/
def Obligations.SerialisedProgramLinesDecode : Prop :=
  decode (.operation 0b010 [0xDE, 0xAD, 0xBE, 0xEF, 0x00, 0xC0, 0xFF, 0xEE, 0x01])
      = .ok (.encode 0xDEADBEEF 0x00C0FFEE 0x01)
  ∧ decode (.operation 0b001 [0xDE, 0xAD, 0xBE, 0xEF, 0x01, 0xFE])
      = .ok (.crc8 [0xDE, 0xAD, 0xBE, 0xEF, 0x01, 0xFE])
  ∧ decode (.operation 0b101 [0x12, 0x34, 0x56, 0x78, 0x04, 0xFB, 0xDA, 0x9A, 0xBC, 0xDE, 0xF0, 0x00, 0x00, 0x00, 0x64])
      = .ok (.recv #v[0x12, 0x34, 0x56, 0x78, 0x04, 0xFB, 0xDA, 0x9A, 0xBC, 0xDE, 0xF0] 100)
  ∧ decode (.operation 0b011 [0x12, 0x34, 0x56, 0x78, 0x04, 0xFB, 0xDA, 0x9A, 0xBC, 0xDE, 0xF0])
      = .ok (.decode #v[0x12, 0x34, 0x56, 0x78, 0x04, 0xFB, 0xDA, 0x9A, 0xBC, 0xDE, 0xF0])
  ∧ decode (.operation 0b100 [0x12, 0x34, 0x56, 0x78, 0x9A, 0xBC, 0xDE, 0xF0, 0x04, 0x00, 0x00, 0x00, 0x00])
      = .ok (.dedup ⟨0x12345678, 0x9ABCDEF0, 0x04⟩ 0)

/-- The codes `000`, `110` and `111` have no step, whatever bytes follow (rule R49; 93_implementation_defined U7). That the stop is
a refusal by name is DEDUCED (log entry 12); the form of a word and the list it stands in are the model's choices (log entries 4
and 7). -/
def Obligations.ReservedCodesHaveNoStep : Prop :=
  ∀ (op : BitVec 3) (operands : List Byte) (rest : List HostInput) (s : State),
    op = 0b000 ∨ op = 0b110 ∨ op = 0b111 →
    s.pending = .word (.operation op operands) :: rest →
    step s = .refused (.reservedOperation op)

/-- A step runs the instruction the host's next word decodes to, on the state without that word, and adds nothing else (rule R6; the
form of a word and that the host's inputs stand in the state are the model's choices, log entries 4 and 7). -/
def Obligations.StepRunsDecodedInstruction : Prop :=
  ∀ (s : State) (w : HostWord) (rest : List HostInput) (i : Instr),
    s.pending = .word w :: rest → decode w = .ok i → i.wellFormed = true →
    step s = exec i { s with pending := rest }

/-- The host's next input has a step exactly when it is the reset input or a word of one of the five operations, and no step ever
ends in a fault (rules R45 and R49, and rule R103, which the spec marks as derived from rules R54, R57, R63 and R73). The form of a
word, and with it the numbers of operand bytes (9, 11, 13, 15, any number for CRC8) that make a word one of the five operations', is
the model's choice (log entry 4), and so are the list the inputs stand in and that nothing presented means no step (log entry 7).
That a bare wire frame has no step, and that a reserved code has none, are DEDUCED (log entries 8 and 12). -/
def Obligations.StepExistsExactlyForOperationsAndReset : Prop :=
  ∀ s : State,
    ((∃ t, step s = .next t) ↔
      (∃ rest, s.pending = .reset :: rest) ∨ (∃ w rest, s.pending = .word w :: rest ∧ IsOperationWord w))
    ∧ (∀ r, step s ≠ .fault r)

/-- The table's FRAME row is a data format: alone it is no operation and has no step (rule R45; log entry 8). -/
def Obligations.WireFrameAloneHasNoStep : Prop :=
  ∀ (f : Frame) (s : State), exec (.frame f) s = .refused .frameIsNotAnOperation

/-- A configuration is taken exactly when `TIMEOUT` fits its width and `MIN_REPEATS` lies between 2 and 65535, and then the run
has those values (decision D10, 93_implementation_defined U3, and rule R86 (a), which the spec marks as derived; log entry 6). -/
def Obligations.ConfigurationTakenExactlyInLegalRange : Prop :=
  ∀ (T : CrcTable) (timeout minRepeats : Nat),
    (timeout < 2 ^ 32 ∧ 2 ≤ minRepeats ∧ minRepeats ≤ 65535 →
      ∃ P, parametersOf T timeout minRepeats = some P ∧ P.crcTable = T ∧ P.timeout.toNat = timeout
        ∧ P.minRepeats.toNat = minRepeats)
    ∧ (¬ (timeout < 2 ^ 32 ∧ 2 ≤ minRepeats ∧ minRepeats ≤ 65535) → parametersOf T timeout minRepeats = none)

/-- The machine run on the words of a program gives what running its operations one after the other gives (rule R32; the words and
the place they stand in are the model's choices, log entries 4 and 7). -/
def Obligations.ProgramRunsInIssueOrder : Prop :=
  ∀ (program : List Instr) (s t : State) (outs : List Outputs),
    runOperations program s = some (outs, t) →
    Host.Core.run Sys2Proof.core program.length
      { s with pending := program.map (fun i => HostInput.word (encode i)) ++ s.pending } = .next t

/-- An operation's results and its effect on DedupState depend only on its operands, the parameters and DedupState: what earlier
steps delivered and what the host will do next play no part (rules R20, R32). -/
def Obligations.ResultsDependOnlyOnOperandsParametersAndDedupState : Prop :=
  ∀ (i : Instr) (s₁ s₂ t₁ : State), s₁.ds = s₂.ds → s₁.params = s₂.params → exec i s₁ = .next t₁ →
    ∃ t₂, exec i s₂ = .next t₂ ∧ t₂.ds = t₁.ds ∧ t₂.params = t₁.params ∧ t₂.out = t₁.out
      ∧ t₂.pending = s₂.pending

/-- CRC8, ENCODE and DECODE are functions of their operands and of `CRC_TABLE`: no DedupState, no window, no threshold enters their
results, and they change nothing but the outputs (rules R54, R57, R66). -/
def Obligations.PureOperationsReadOnlyOperandsAndTable : Prop :=
  ∀ (i : Instr) (s₁ s₂ : State), s₁.params.crcTable = s₂.params.crcTable →
    (∃ span, i = .crc8 span) ∨ (∃ n d p, i = .encode n d p) ∨ (∃ f, i = .decode f) →
    ∃ o, exec i s₁ = .next { s₁ with out := o } ∧ exec i s₂ = .next { s₂ with out := o }

/-! ### Reset and invariants -/

/-- The reset state: DedupState all zero, the default table, a legal threshold; nothing presented, nothing delivered. The last two
fields are the model's own (log entries 5 and 7); the values of the two OPEN parameters are not fixed (log entry 2). -/
def Obligations.ResetStateIsEmptySlot : Prop :=
  State.reset.ds = { valid := false, net := 0, dev := 0, pay := 0, count := 0, last := 0 }
    ∧ State.reset.params.crcTable = defaultCrcTable ∧ 2 ≤ State.reset.params.minRepeats.toNat
    ∧ State.reset.pending = [] ∧ State.reset.out = {}

/-- The reset input clears the six fields of DedupState, leaves the parameters, and makes the next Message, presented by DEDUP or
by RECV of a valid frame, a new event with count 1 and no emission (rule R112). That it leaves every output absent is the model's
choice (log entry 5: the outputs stand in the state), and so is that it stands in the list of the host's inputs and keeps the rest
of that list (log entry 7). -/
def Obligations.ResetInputEmptiesSlot : Prop :=
  ∀ (s : State) (rest : List HostInput), s.pending = .reset :: rest →
    ∃ u, step s = .next u
      ∧ u.ds = { valid := false, net := 0, dev := 0, pay := 0, count := 0, last := 0 }
      ∧ u.params = s.params ∧ u.pending = rest ∧ u.out = {}
      ∧ (∀ m t, exec (.dedup m t) u = .next (afterNewEvent u m t))
      ∧ (∀ n d p t, ∃ v, exec (.recv (buildFrame s.params.crcTable n d p) t) u = .next v
          ∧ v.ds = (afterNewEvent u ⟨n, d, p⟩ t).ds ∧ v.out = { status := some .ok })

/-- Every step keeps the invariant: a tracked Message has a count of at least 1, an empty slot is all zero, an event stands only
beside the count `MIN_REPEATS` and carries the tracked identity, never beside an error, and a Message stands only beside `OK`
(rules R47, R77, R79, R101, and rule R15 (a) and (c), which the spec marks as derived; outputs standing in
the state are log entry 5's). -/
def Obligations.StepKeepsSoundStates : Prop :=
  ∀ s t : State, s.Inv → step s = .next t → t.Inv

/-- The reset state satisfies the invariant (rule R19, and rule R15, which the spec marks as derived). -/
def Obligations.ResetStateIsSound : Prop :=
  State.reset.Inv

/-- Once a Message is tracked one stays tracked until reset, and the count drops only by a new-event transition, to 1, with no
emission (rule R15 (b) and (d), which the spec marks as derived from rules R19, R76 and R78). -/
def Obligations.TrackedUntilResetAndCountDropsOnlyToOne : Prop :=
  ∀ s t : State, step s = .next t → s.ds.valid = true → s.pending.head? ≠ some .reset →
    t.ds.valid = true ∧ (t.ds.count.toNat < s.ds.count.toNat → t.ds.count = 1 ∧ emitBit t.out = false)

/-- No operation and no reset writes the checksum table, the window or the threshold (rules R17, R18, R115). -/
def Obligations.NoStepWritesParameters : Prop :=
  ∀ s t : State, step s = .next t → t.params = s.params

/-- Only DEDUP, and RECV of a valid frame, write DedupState (rule R13). -/
def Obligations.OnlyDedupAndValidRecvWriteSlot : Prop :=
  ∀ (i : Instr) (s t : State), exec i s = .next t → t.ds ≠ s.ds →
    (∃ m u, i = .dedup m u) ∨ (∃ f u, i = .recv f u ∧ ValidFrame s.params.crcTable f)

/-- An event comes only from DEDUP or RECV, only when the step makes the count `MIN_REPEATS`, and it carries the tracked identity,
with no error beside it (rules R77, R79, R101, R105). -/
def Obligations.EventOnlyWhenCountBecomesThreshold : Prop :=
  ∀ (i : Instr) (s t : State) (e : Event), exec i s = .next t → t.out.event = some e →
    ((∃ m u, i = .dedup m u) ∨ (∃ f u, i = .recv f u)) ∧ s.ds.valid = true
      ∧ s.ds.count.toNat + 1 = s.params.minRepeats.toNat ∧ t.ds.count = s.params.minRepeats
      ∧ e = ⟨s.ds.net, s.ds.dev, s.ds.pay⟩ ∧ t.ds.net = s.ds.net ∧ t.ds.dev = s.ds.dev ∧ t.ds.pay = s.ds.pay
      ∧ t.out.status ≠ some .payloadMismatch ∧ t.out.status ≠ some .checksumMismatch

/-! ### Checksum Engine -/

/-- CRC8 delivers the fold of the table look-up over the span, from 0, and changes nothing else; with the default table the
worked example gives 0xDA (rule R63; the default table is log entry 1's). -/
def Obligations.Crc8FoldsTheTable : Prop :=
  (∀ (span : List Byte) (s : State),
    exec (.crc8 span) s = .next { s with
      out := { crc := some (span.foldl (fun rv b => s.params.crcTable[(b ^^^ rv).toNat]'(b ^^^ rv).isLt) 0x00) } })
  ∧ (∀ s : State, s.params.crcTable = defaultCrcTable →
      exec (.crc8 [0x12, 0x34, 0x56, 0x78, 0x04, 0xFB]) s = .next { s with out := { crc := some 0xDA } })

/-- The checksum of a concatenation continues the fold from the checksum of its first part, for every table (rule R69,
which the spec marks as derived from rule R64). -/
def Obligations.ChecksumOfConcatenation : Prop :=
  ∀ (T : CrcTable) (a b : List Byte), crc8 T (a ++ b) = b.foldl (crc8Step T) (crc8 T a)

/-- The empty span gives 0 and a span longer by one byte gives one step more, as CRC8 delivers them (rule R64). -/
def Obligations.Crc8OfEmptyAndLongerSpans : Prop :=
  ∀ (s : State) (span : List Byte) (x : Byte),
    exec (.crc8 []) s = .next { s with out := { crc := some 0 } }
    ∧ ∃ rv, exec (.crc8 span) s = .next { s with out := { crc := some rv } }
      ∧ exec (.crc8 (span ++ [x])) s
          = .next { s with out := { crc := some (s.params.crcTable[(x ^^^ rv).toNat]'(x ^^^ rv).isLt) } }

/-- The default table is the polynomial loop entry for entry, and the table-free engine gives every span the same checksum (rule
R68; the table and the loop are the spec's, from general knowledge, log entry 1). -/
def Obligations.DefaultTableIsPolynomialEngine : Prop :=
  let loop : Byte → Byte := (fun c => if c.getLsbD 0 then (c >>> 1) ^^^ 0x8C else c >>> 1)^[8]
  (∀ i : Byte, tableEntry defaultCrcTable i = loop i)
    ∧ ∀ span : List Byte, crc8 defaultCrcTable span = span.foldl (fun rv b => loop (rv ^^^ b)) 0

/-- The five properties of the default table (rule R70, which the spec marks as derived from rule R67; the table is log entry 1's). -/
def Obligations.DefaultTableIsLinearPermutation : Prop :=
  Function.Bijective (tableEntry defaultCrcTable)
    ∧ (∀ b, Function.Bijective fun rv => crc8Step defaultCrcTable rv b)
    ∧ (∀ rv, Function.Bijective fun b => crc8Step defaultCrcTable rv b)
    ∧ tableEntry defaultCrcTable 0x00 = 0x00
    ∧ (∀ a b, tableEntry defaultCrcTable (a ^^^ b) = tableEntry defaultCrcTable a ^^^ tableEntry defaultCrcTable b)
    ∧ (∀ x y : List Byte, x.length = y.length →
        crc8 defaultCrcTable (List.zipWith (· ^^^ ·) x y) = crc8 defaultCrcTable x ^^^ crc8 defaultCrcTable y)
    ∧ [0x01, 0x02, 0x04, 0x08, 0x10, 0x20, 0x40, 0x80].map (tableEntry defaultCrcTable)
        = [0x5E, 0xBC, 0x61, 0xC2, 0x9D, 0x23, 0x46, 0x8C]

/-- With `T[0] = 0`: leading zeros change nothing, all-zero spans give 0, a span followed by its own checksum gives 0, and so do
offsets 0 to 6 of a valid frame; with the default table that last form is equivalent to the checksum check (rule R71,
which the spec marks as derived; that the equivalence needs more of the table than `T[0] = 0` is log entry 9; the default table is
log entry 1's). -/
def Obligations.ZeroEntryMakesChecksumResidueZero : Prop :=
  (∀ T : CrcTable, tableEntry T 0 = 0 →
    (∀ span, crc8 T (0 :: span) = crc8 T span) ∧ (∀ n, crc8 T (List.replicate n 0) = 0)
      ∧ (∀ span, crc8 T (span ++ [crc8 T span]) = 0)
      ∧ (∀ f, ValidFrame T f → crc8 T [f[0], f[1], f[2], f[3], f[4], f[5], f[6]] = 0))
  ∧ (∀ f : Frame, crc8 defaultCrcTable [f[0], f[1], f[2], f[3], f[4], f[5], f[6]] = 0
      ↔ crc8 defaultCrcTable [f[0], f[1], f[2], f[3], f[4], f[5]] = f[6])

/-- The published check value: the nine ASCII bytes "123456789" give 0xA1 with the default table (rule R72, from
general knowledge as the table is, log entry 1). -/
def Obligations.CheckValueOfDefaultTable : Prop :=
  ∀ s : State, s.params.crcTable = defaultCrcTable →
    exec (.crc8 [0x31, 0x32, 0x33, 0x34, 0x35, 0x36, 0x37, 0x38, 0x39]) s
      = .next { s with out := { crc := some 0xA1 } }

/-! ### Frame Codec -/

/-- ENCODE delivers the eleven bytes of the frame and changes nothing else; with the default table the worked example gives the
frame the rule prints (rules R37, R53; the default table is log entry 1's). -/
def Obligations.EncodeBuildsElevenBytes : Prop :=
  (∀ (n d : Id32) (p : Byte) (s : State),
    exec (.encode n d p) s =
      let checksum := crc8 s.params.crcTable
        [n.extractLsb 31 24, n.extractLsb 23 16, n.extractLsb 15 8, n.extractLsb 7 0, p, p ^^^ 0xFF]
      let f : Frame := #v[n.extractLsb 31 24, n.extractLsb 23 16, n.extractLsb 15 8, n.extractLsb 7 0, p, p ^^^ 0xFF, checksum,
        d.extractLsb 31 24, d.extractLsb 23 16, d.extractLsb 15 8, d.extractLsb 7 0]
      .next { s with out := { frame := some f } })
  ∧ (∀ s : State, s.params.crcTable = defaultCrcTable →
      exec (.encode 0x12345678 0x9ABCDEF0 0x04) s = .next { s with
        out := { frame := some #v[0x12, 0x34, 0x56, 0x78, 0x04, 0xFB, 0xDA, 0x9A, 0xBC, 0xDE, 0xF0] } })

/-- DECODE: the complement check first, then the checksum check, then the Message; it changes nothing but the outputs (rules R55,
R56, R101). -/
def Obligations.DecodeChecksThenExtracts : Prop :=
  ∀ (b : Frame) (s : State),
    exec (.decode b) s =
      let o : Outputs :=
        if b[4] ^^^ b[5] ≠ 0xFF then { status := some .payloadMismatch }
        else if crc8 s.params.crcTable [b[0], b[1], b[2], b[3], b[4], b[5]] ≠ b[6] then { status := some .checksumMismatch }
        else { status := some .ok, message := some ⟨b[0] ++ b[1] ++ b[2] ++ b[3], b[7] ++ b[8] ++ b[9] ++ b[10], b[4]⟩ }
      .next { s with out := o }

/-- The status codes of DECODE and RECV classify the frame: 0 a valid frame, 1 the complement check failed, 2 only the checksum
check failed, 3 never; DECODE delivers a Message with 0 alone (rules R42, R48, R97). -/
def Obligations.StatusCodesClassifyFrames : Prop :=
  ∀ (f : Frame) (u : Time) (s : State) (i : Instr), i = .decode f ∨ i = .recv f u →
    ∃ t st, exec i s = .next t ∧ t.out.status = some st
      ∧ (statusCode st = 0 ↔ ValidFrame s.params.crcTable f)
      ∧ (statusCode st = 1 ↔ f[4] ^^^ f[5] ≠ 0xFF)
      ∧ (statusCode st = 2 ↔
          f[4] ^^^ f[5] = 0xFF ∧ crc8 s.params.crcTable [f[0], f[1], f[2], f[3], f[4], f[5]] ≠ f[6])
      ∧ statusCode st ≠ 3
      ∧ (i = .decode f → (t.out.message.isSome = true ↔ statusCode st = 0))

/-- Decoding an encoded Message gives it back, for every Message and every table (rule R58; that it holds
for every table the spec marks as derived). -/
def Obligations.CodecRoundTrip : Prop :=
  ∀ (n d : Id32) (p : Byte) (s : State),
    ∃ f, exec (.encode n d p) s = .next { s with out := { frame := some f } }
      ∧ exec (.decode f) s = .next { s with out := { status := some .ok, message := some ⟨n, d, p⟩ } }

/-- Encoding a decoded Message gives the frame back byte for byte, and ENCODE is a bijection from Messages onto valid frames, for
every table (rule R59, which the spec marks as derived). -/
def Obligations.ValidFramesAreExactlyEncodings : Prop :=
  (∀ (b : Frame) (m : Message) (s t : State), exec (.decode b) s = .next t → t.out.message = some m →
    exec (.encode m.networkId m.deviceId m.payload) s = .next { s with out := { frame := some b } })
  ∧ ∀ T : CrcTable, Set.BijOn (fun m : Message => buildFrame T m.networkId m.deviceId m.payload) Set.univ
      { f | ValidFrame T f }

/-- Two different Messages give frames that differ at offsets 0 to 4 or 7 to 10, and those offsets determine a valid frame (rule
R41, which the spec marks as derived). -/
def Obligations.FramesDifferOutsideCheckBytes : Prop :=
  ∀ T : CrcTable,
    (∀ m m' : Message, m ≠ m' → ∃ k : Fin 11, k ≠ 5 ∧ k ≠ 6 ∧
      (buildFrame T m.networkId m.deviceId m.payload)[k] ≠ (buildFrame T m'.networkId m'.deviceId m'.payload)[k])
    ∧ (∀ f g : Frame, ValidFrame T f → ValidFrame T g →
        (∀ k : Fin 11, k ≠ 5 → k ≠ 6 → f[k] = g[k]) → f = g)

/-- A flipped bit in the payload pair is a `PayloadMismatch`, whatever else changed, and a changed checksum byte alone is a
`ChecksumMismatch`, for every table (rule R60, which the spec marks as derived from rule R55). -/
def Obligations.CorruptionIsReportedByKind : Prop :=
  ∀ (f : Frame) (s : State), ValidFrame s.params.crcTable f →
    (∀ (k : Fin 11) (j : Fin 8), k = 4 ∨ k = 5 →
      exec (.decode (frameWith f k (f[k] ^^^ (1#8 <<< j.val)))) s
        = .next { s with out := { status := some .payloadMismatch } })
    ∧ (∀ g : Frame, g[4] ^^^ g[5] ≠ 0xFF →
      exec (.decode g) s = .next { s with out := { status := some .payloadMismatch } })
    ∧ (∀ b : Byte, b ≠ f[6] →
      exec (.decode (frameWith f 6 b)) s = .next { s with out := { status := some .checksumMismatch } })

/-- Any change confined to offsets 7 to 10 of a valid frame yields another valid frame whose Message differs only in `device_id`
(rule R61, which the spec marks as derived from rule R55). -/
def Obligations.DeviceIdIsNotProtected : Prop :=
  ∀ (f g : Frame) (s : State), ValidFrame s.params.crcTable f → (∀ k : Fin 11, k.val < 7 → g[k] = f[k]) →
    ∃ m : Message, exec (.decode f) s = .next { s with out := { status := some .ok, message := some m } }
      ∧ exec (.decode g) s = .next { s with
          out := { status := some .ok, message := some { m with deviceId := g[7] ++ g[8] ++ g[9] ++ g[10] } } }

/-- A complementary change of the payload pair is caught only by the checksum, for every table; with the default table every
change of exactly one byte at offsets 0 to 5 is detected (rule R62, which the spec marks as derived; the table is log entry 1's). -/
def Obligations.SingleByteChangesAreDetected : Prop :=
  ∀ (f : Frame) (s : State), ValidFrame s.params.crcTable f →
    (∀ p : Byte, exec (.decode (frameWith (frameWith f 4 p) 5 (p ^^^ 0xFF))) s =
      let o : Outputs :=
        if crc8 s.params.crcTable [f[0], f[1], f[2], f[3], p, p ^^^ 0xFF] = f[6] then
          { status := some .ok, message := some ⟨f[0] ++ f[1] ++ f[2] ++ f[3], f[7] ++ f[8] ++ f[9] ++ f[10], p⟩ }
        else { status := some .checksumMismatch }
      .next { s with out := o })
    ∧ (s.params.crcTable = defaultCrcTable → ∀ (k : Fin 11) (b : Byte), k.val < 6 → b ≠ f[k] →
      ∃ t, exec (.decode (frameWith f k b)) s = .next t
        ∧ (t.out.status = some .payloadMismatch ∨ t.out.status = some .checksumMismatch))

/-- Both identifiers are big-endian: the byte at the lowest offset has the greatest weight, in what ENCODE delivers and in what
DECODE delivers (rule R27). -/
def Obligations.IdentifiersAreBigEndian : Prop :=
  (∀ (n d : Id32) (p : Byte) (s : State), ∃ b : Frame,
    exec (.encode n d p) s = .next { s with out := { frame := some b } }
    ∧ n.toNat = b[0].toNat * 2 ^ 24 + b[1].toNat * 2 ^ 16 + b[2].toNat * 2 ^ 8 + b[3].toNat
    ∧ d.toNat = b[7].toNat * 2 ^ 24 + b[8].toNat * 2 ^ 16 + b[9].toNat * 2 ^ 8 + b[10].toNat)
  ∧ (∀ (b : Frame) (s : State), ValidFrame s.params.crcTable b → ∃ m : Message,
    exec (.decode b) s = .next { s with out := { status := some .ok, message := some m } }
    ∧ m.networkId.toNat = b[0].toNat * 2 ^ 24 + b[1].toNat * 2 ^ 16 + b[2].toNat * 2 ^ 8 + b[3].toNat
    ∧ m.deviceId.toNat = b[7].toNat * 2 ^ 24 + b[8].toNat * 2 ^ 16 + b[9].toNat * 2 ^ 8 + b[10].toNat)

/-- A frame error ends DECODE and RECV with its status and nothing else: no Message, no event, every field of DedupState, the
parameters and the host's inputs as they were (rule R100). -/
def Obligations.FrameErrorChangesOnlyStatus : Prop :=
  ∀ (f : Frame) (u : Time) (s : State) (i : Instr), i = .decode f ∨ i = .recv f u → ¬ ValidFrame s.params.crcTable f →
    exec i s = .next { s with
      out := { status := some (if f[4] ^^^ f[5] = 0xFF then .checksumMismatch else .payloadMismatch) } }

/-- After a frame error the next operation runs exactly as if the failed one had not been issued (rule R102). -/
def Obligations.NextOperationUnaffectedByFrameError : Prop :=
  ∀ (f : Frame) (u : Time) (s t : State) (i j : Instr), i = .decode f ∨ i = .recv f u →
    ¬ ValidFrame s.params.crcTable f → exec i s = .next t → exec j t = exec j s

/-! ### Receive Deduplicator -/

/-- DEDUP as one equation: the distinctness test, the same-event transition with its emission on the old count, and the new-event
transition (rules R73, R74, R77, R78, R79). -/
def Obligations.DedupTransition : Prop :=
  ∀ (m : Message) (t : Time) (s : State),
    exec (.dedup m t) s = .next
      (if s.ds.valid = true ∧ m.networkId = s.ds.net ∧ m.deviceId = s.ds.dev ∧ m.payload = s.ds.pay
          ∧ (t - s.ds.last).toNat ≤ s.params.timeout.toNat then
        { s with
          ds := { s.ds with count := BitVec.ofNat 16 (min (s.ds.count.toNat + 1) (2 ^ 16 - 1)), last := t }
          out := { event := if s.ds.count.toNat = s.params.minRepeats.toNat - 1
            then some ⟨s.ds.net, s.ds.dev, s.ds.pay⟩ else none } }
      else
        { s with
          ds := { valid := true, net := m.networkId, dev := m.deviceId, pay := m.payload, count := 1, last := t }
          out := {} })

/-- An empty slot matches no Message, whatever its other fields hold: the next Message is a new event (rule R14). -/
def Obligations.EmptySlotMatchesNothing : Prop :=
  ∀ (m : Message) (t : Time) (s : State), s.ds.valid = false → exec (.dedup m t) s = .next (afterNewEvent s m t)

/-- The transitions between the conceptual states, and the only one that emits; nothing but the reset input leads back to empty
(rule R80). -/
def Obligations.PhaseTransitions : Prop :=
  (∀ (m : Message) (t : Time) (s : State), ∃ u, exec (.dedup m t) s = .next u
    ∧ (phaseOf s.params.minRepeats s.ds = .empty → ¬ SameEvent s m t)
    ∧ (¬ SameEvent s m t → phaseOf s.params.minRepeats u.ds = .belowThreshold ∧ emitBit u.out = false)
    ∧ (SameEvent s m t → phaseOf s.params.minRepeats s.ds = .belowThreshold →
        s.ds.count.toNat < s.params.minRepeats.toNat - 1 →
        phaseOf s.params.minRepeats u.ds = .belowThreshold ∧ emitBit u.out = false)
    ∧ (SameEvent s m t → phaseOf s.params.minRepeats s.ds = .belowThreshold →
        s.ds.count.toNat = s.params.minRepeats.toNat - 1 →
        phaseOf s.params.minRepeats u.ds = .atOrAboveThreshold ∧ emitBit u.out = true)
    ∧ (SameEvent s m t → phaseOf s.params.minRepeats s.ds = .atOrAboveThreshold →
        phaseOf s.params.minRepeats u.ds = .atOrAboveThreshold ∧ emitBit u.out = false))
  ∧ (∀ s t : State, step s = .next t → phaseOf t.params.minRepeats t.ds = .empty →
      phaseOf s.params.minRepeats s.ds = .empty ∨ s.pending.head? = some .reset)

/-- The gap is taken modulo 2^32: a Message identical to the tracked one that arrives `elapsed` units later, across a wrap or
not, is the same event exactly within the window, its far end included, and one that arrives `back` units earlier is a new event
unless the window reaches 2^32 − `back` (rules R74, R75; decisions D18, D25). -/
def Obligations.GapIsModularAndWindowClosed : Prop :=
  ∀ (m : Message) (s : State), s.ds.valid = true → m = ⟨s.ds.net, s.ds.dev, s.ds.pay⟩ →
    (∀ elapsed : Nat, elapsed < 2 ^ 32 →
      let t := s.ds.last + BitVec.ofNat 32 elapsed
      (elapsed ≤ s.params.timeout.toNat → exec (.dedup m t) s = .next (afterSameEvent s t))
      ∧ (s.params.timeout.toNat < elapsed → exec (.dedup m t) s = .next (afterNewEvent s m t)))
    ∧ (∀ back : Nat, 0 < back → back < 2 ^ 32 →
      let t := s.ds.last - BitVec.ofNat 32 back
      (s.params.timeout.toNat < 2 ^ 32 - back → exec (.dedup m t) s = .next (afterNewEvent s m t))
      ∧ (2 ^ 32 - back ≤ s.params.timeout.toNat → exec (.dedup m t) s = .next (afterSameEvent s t)))

/-- The corner windows: with `TIMEOUT = 0` only the very same time is the same event, with the largest window every time is
(rule R86 (b) and (c), which the spec marks as derived). -/
def Obligations.CornerWindows : Prop :=
  ∀ (m : Message) (t : Time) (s : State), s.ds.valid = true → m = ⟨s.ds.net, s.ds.dev, s.ds.pay⟩ →
    (s.params.timeout = 0 →
      exec (.dedup m t) s = .next (if t = s.ds.last then afterSameEvent s t else afterNewEvent s m t))
    ∧ (s.params.timeout = 0xFFFFFFFF → exec (.dedup m t) s = .next (afterSameEvent s t))

/-- At its maximum the counter stays, the last-seen time still moves, and nothing is emitted (rules R81, R119). -/
def Obligations.SaturatedCounterStaysSilent : Prop :=
  ∀ (m : Message) (t : Time) (s : State), SameEvent s m t → s.ds.count = 0xFFFF →
    exec (.dedup m t) s = .next { s with ds := { s.ds with last := t }, out := {} }

/-- Over every sequence of arrivals a deduplicator with an unbounded counter emits on the same steps, and its record agrees with
DedupState until the narrow counter saturates (rule R81). -/
def Obligations.UnboundedCounterEmitsTheSame : Prop :=
  ∀ (arrivals : List (Message × Time)) (s : State) (d : WideDedup), d.Agrees s.ds →
    ∃ outs t, runOperations (arrivals.map fun a => Instr.dedup a.1 a.2) s = some (outs, t)
      ∧ outs.map emitBit = (d.run s.params.timeout s.params.minRepeats.toNat arrivals).1
      ∧ (d.run s.params.timeout s.params.minRepeats.toNat arrivals).2.Agrees t.ds

/-- One emission per burst: a stream of one Message that starts with a new event and stays within the window emits on its step
number `MIN_REPEATS` and on no other, carrying that Message, and the count is the stream's length until it saturates (rules R82
and R83, which the spec marks as derived from rules R76, R77, R78 and R81). -/
def Obligations.BurstEmitsOnceAtThreshold : Prop :=
  ∀ (s : State) (m : Message) (t₀ : Time) (times : List Time),
    ¬ SameEvent s m t₀ → WithinWindow s.params.timeout t₀ times →
    ∃ outs u, runOperations (presentAt m (t₀ :: times)) s = some (outs, u)
      ∧ outs.map emitBit = thresholdPattern s.params.minRepeats.toNat 0 (times.length + 1)
      ∧ (∀ o ∈ outs, ∀ e, o.event = some e → e = ⟨m.networkId, m.deviceId, m.payload⟩)
      ∧ u.ds.count.toNat = min (times.length + 1) (2 ^ 16 - 1)

/-- A stream that continues a tracked Message within the window counts on from the tracked count (rule R83, last
sentence; the spec marks it as derived). -/
def Obligations.LiveSlotContinuesItsCount : Prop :=
  ∀ (s : State) (m : Message) (times : List Time),
    s.ds.valid = true → m = ⟨s.ds.net, s.ds.dev, s.ds.pay⟩ → WithinWindow s.params.timeout s.ds.last times →
    ∃ outs u, runOperations (presentAt m times) s = some (outs, u)
      ∧ outs.map emitBit = thresholdPattern s.params.minRepeats.toNat s.ds.count.toNat times.length
      ∧ u.ds.count.toNat = min (s.ds.count.toNat + times.length) (2 ^ 16 - 1)
      ∧ u.ds.last = lastTime s.ds.last times

/-- Two streams of one Message further apart than the window are two events, each with a threshold count of its own (rule R84, which
the spec marks as derived from rules R74 and R78). -/
def Obligations.SeparatedBurstsAreTwoEvents : Prop :=
  ∀ (s : State) (m : Message) (t₀ t₁ : Time) (first second : List Time),
    ¬ SameEvent s m t₀ → WithinWindow s.params.timeout t₀ first →
    s.params.timeout.toNat < (t₁ - lastTime t₀ first).toNat → WithinWindow s.params.timeout t₁ second →
    ∃ outs u, runOperations (presentAt m ((t₀ :: first) ++ (t₁ :: second))) s = some (outs, u)
      ∧ outs.map emitBit = thresholdPattern s.params.minRepeats.toNat 0 (first.length + 1)
          ++ thresholdPattern s.params.minRepeats.toNat 0 (second.length + 1)

/-- Messages each of which differs from the one before it never emit, however many there are, and the count stays 1: two
alternating devices are never reported (rule R85, which the spec marks as derived from rules R74 and R78). -/
def Obligations.InterleavedMessagesNeverEmit : Prop :=
  ∀ (s : State) (m : Message) (t₀ : Time) (arrivals : List (Message × Time)),
    ¬ SameEvent s m t₀ → EachDiffers m arrivals →
    ∃ outs u, runOperations (((m, t₀) :: arrivals).map fun a => Instr.dedup a.1 a.2) s = some (outs, u)
      ∧ (∀ o ∈ outs, emitBit o = false) ∧ u.ds.count = 1

/-! ### Receive path -/

/-- RECV as one equation: the frame error of DECODE with nothing else changed, or status `OK` with DEDUP's transition (rules R87,
R88). -/
def Obligations.RecvDecodesThenDeduplicates : Prop :=
  ∀ (b : Frame) (t : Time) (s : State),
    exec (.recv b t) s = .next
      (if b[4] ^^^ b[5] ≠ 0xFF then { s with out := { status := some .payloadMismatch } }
      else if crc8 s.params.crcTable [b[0], b[1], b[2], b[3], b[4], b[5]] ≠ b[6] then
        { s with out := { status := some .checksumMismatch } }
      else if s.ds.valid = true ∧ b[0] ++ b[1] ++ b[2] ++ b[3] = s.ds.net ∧ b[7] ++ b[8] ++ b[9] ++ b[10] = s.ds.dev
          ∧ b[4] = s.ds.pay ∧ (t - s.ds.last).toNat ≤ s.params.timeout.toNat then
        { s with
          ds := { s.ds with count := BitVec.ofNat 16 (min (s.ds.count.toNat + 1) (2 ^ 16 - 1)), last := t }
          out := { status := some .ok, event := if s.ds.count.toNat = s.params.minRepeats.toNat - 1
            then some ⟨s.ds.net, s.ds.dev, s.ds.pay⟩ else none } }
      else
        { s with
          ds := { valid := true, net := b[0] ++ b[1] ++ b[2] ++ b[3], dev := b[7] ++ b[8] ++ b[9] ++ b[10], pay := b[4]
                  count := 1, last := t }
          out := { status := some .ok } })

/-- RECV has the status of DECODE, and the event and the DedupState of DEDUP on the decoded Message where there is one; where there
is none it emits nothing and leaves DedupState (rule R96, which the spec marks as derived from rule R87). -/
def Obligations.RecvEqualsDecodeThenDedup : Prop :=
  ∀ (b : Frame) (t : Time) (s : State), ∃ u v, exec (.decode b) s = .next u ∧ exec (.recv b t) s = .next v
    ∧ v.out.status = u.out.status
    ∧ (∀ m, u.out.message = some m →
        ∃ w, exec (.dedup m t) u = .next w ∧ v.ds = w.ds ∧ v.out.event = w.out.event ∧ emitBit v.out = emitBit w.out)
    ∧ (u.out.message = none → v.ds = u.ds ∧ v.out.event = none)

/-- Frames that fail a check, and the pure operations, can be struck out of any sequence of operations: DedupState and the events
the sink sees are the same (rules R13, R88). -/
def Obligations.NoiseIsInvisibleToDeduplicator : Prop :=
  ∀ (program : List Instr) (s t : State) (outs : List Outputs), runOperations program s = some (outs, t) →
    ∃ outs' t',
      runOperations (program.filter fun i => !leavesDedupStateAlone s.params.crcTable i) s = some (outs', t')
      ∧ t'.ds = t.ds ∧ outs'.filterMap (·.event) = outs.filterMap (·.event)
end

