-- ==== Sys2Proof/Laws/State.lean ====
section
/-! SUPPORT. One lemma per field per update of State, so that no later proof unfolds a record update. -/

namespace Sys2Proof.Machine

@[simp] theorem State.deliver_ds (s : State) (o : Outputs) : (s.deliver o).ds = s.ds := rfl
@[simp] theorem State.deliver_params (s : State) (o : Outputs) : (s.deliver o).params = s.params := rfl
@[simp] theorem State.deliver_pending (s : State) (o : Outputs) : (s.deliver o).pending = s.pending := rfl
@[simp] theorem State.deliver_out (s : State) (o : Outputs) : (s.deliver o).out = o := rfl

@[simp] theorem State.raiseFrameError_ds (s : State) (e : FrameError) : (s.raiseFrameError e).ds = s.ds := rfl
@[simp] theorem State.raiseFrameError_params (s : State) (e : FrameError) : (s.raiseFrameError e).params = s.params := rfl
@[simp] theorem State.raiseFrameError_pending (s : State) (e : FrameError) : (s.raiseFrameError e).pending = s.pending := rfl
@[simp] theorem State.raiseFrameError_out (s : State) (e : FrameError) :
    (s.raiseFrameError e).out = { status := some (statusOfError e) } := rfl

@[simp] theorem State.applyReset_ds (s : State) : s.applyReset.ds = DedupState.empty _ _ := rfl
@[simp] theorem State.applyReset_params (s : State) : s.applyReset.params = s.params := rfl
@[simp] theorem State.applyReset_pending (s : State) : s.applyReset.pending = s.pending := rfl
@[simp] theorem State.applyReset_out (s : State) : s.applyReset.out = {} := rfl

section dedup
variable {timeW countW : Nat}

@[simp] theorem DedupState.empty_valid : (DedupState.empty timeW countW).valid = false := rfl
@[simp] theorem DedupState.empty_count : (DedupState.empty timeW countW).count = 0 := rfl

@[simp] theorem sameEventTransition_valid (ds : DedupState timeW countW) (t : BitVec timeW) :
    (sameEventTransition ds t).valid = ds.valid := rfl
@[simp] theorem sameEventTransition_net (ds : DedupState timeW countW) (t : BitVec timeW) :
    (sameEventTransition ds t).net = ds.net := rfl
@[simp] theorem sameEventTransition_dev (ds : DedupState timeW countW) (t : BitVec timeW) :
    (sameEventTransition ds t).dev = ds.dev := rfl
@[simp] theorem sameEventTransition_pay (ds : DedupState timeW countW) (t : BitVec timeW) :
    (sameEventTransition ds t).pay = ds.pay := rfl
@[simp] theorem sameEventTransition_count (ds : DedupState timeW countW) (t : BitVec timeW) :
    (sameEventTransition ds t).count = saturatingIncrement ds.count := rfl
@[simp] theorem sameEventTransition_last (ds : DedupState timeW countW) (t : BitVec timeW) :
    (sameEventTransition ds t).last = t := rfl

@[simp] theorem newEventTransition_valid (m : Message) (t : BitVec timeW) :
    (newEventTransition (countW := countW) m t).valid = true := rfl
@[simp] theorem newEventTransition_net (m : Message) (t : BitVec timeW) :
    (newEventTransition (countW := countW) m t).net = m.networkId := rfl
@[simp] theorem newEventTransition_dev (m : Message) (t : BitVec timeW) :
    (newEventTransition (countW := countW) m t).dev = m.deviceId := rfl
@[simp] theorem newEventTransition_pay (m : Message) (t : BitVec timeW) :
    (newEventTransition (countW := countW) m t).pay = m.payload := rfl
@[simp] theorem newEventTransition_count (m : Message) (t : BitVec timeW) :
    (newEventTransition (countW := countW) m t).count = 1 := rfl
@[simp] theorem newEventTransition_last (m : Message) (t : BitVec timeW) :
    (newEventTransition (countW := countW) m t).last = t := rfl

end dedup

end Sys2Proof.Machine
end

