-- ==== Sys2Proof/Laws/Ops.lean ====
section
/-! SUPPORT. For each shared operation one lemma that says once everything it can do: citing it, a proof need not unfold it. -/

namespace Sys2Proof.Machine

/-! ### Bytes of 32-bit values and of frames -/

/-- The bits of an assembled 32-bit value, byte by byte. -/
theorem unbe32_getLsbD (b0 b1 b2 b3 : Byte) (i : Nat) :
    (unbe32 b0 b1 b2 b3).getLsbD i =
      if i < 8 then b3.getLsbD i else if i < 16 then b2.getLsbD (i - 8) else if i < 24 then b1.getLsbD (i - 16)
      else b0.getLsbD (i - 24) := by
  simp only [unbe32, BitVec.getLsbD_append, Nat.sub_sub]
  (repeat' split) <;> first | rfl | omega

/-- Assembling the four bytes of a value gives the value. -/
theorem unbe32_extract (v : BitVec 32) :
    unbe32 (v.extractLsb' 24 8) (v.extractLsb' 16 8) (v.extractLsb' 8 8) (v.extractLsb' 0 8) = v := by
  refine BitVec.eq_of_getLsbD_eq fun i hi => ?_
  simp only [unbe32_getLsbD, BitVec.getLsbD_extractLsb']
  (repeat' split) <;> rw [decide_eq_true (by omega), Bool.true_and] <;> congr 1 <;> omega

/-- The four bytes of an assembled value are the bytes it was assembled from. -/
theorem extract_unbe32 (b0 b1 b2 b3 : Byte) :
    (unbe32 b0 b1 b2 b3).extractLsb' 24 8 = b0 ∧ (unbe32 b0 b1 b2 b3).extractLsb' 16 8 = b1
      ∧ (unbe32 b0 b1 b2 b3).extractLsb' 8 8 = b2 ∧ (unbe32 b0 b1 b2 b3).extractLsb' 0 8 = b3 := by
  refine ⟨?_, ?_, ?_, ?_⟩ <;> refine BitVec.eq_of_getLsbD_eq fun i hi => ?_ <;>
    simp only [BitVec.getLsbD_extractLsb', unbe32_getLsbD, decide_eq_true hi, Bool.true_and] <;>
    (repeat' split) <;> first | omega | (congr 1; omega)

/-- Splitting an assembled value gives its four bytes. -/
theorem be32_unbe32 (b0 b1 b2 b3 : Byte) : be32 (unbe32 b0 b1 b2 b3) = [b0, b1, b2, b3] := by
  obtain ⟨h0, h1, h2, h3⟩ := extract_unbe32 b0 b1 b2 b3
  simp only [be32, h0, h1, h2, h3]

@[simp] theorem be32_length (v : BitVec 32) : (be32 v).length = 4 := rfl

@[simp] theorem frameBytes_length (f : Frame) : (frameBytes f).length = 11 := by simp [frameBytes]

/-- A frame's bytes make that frame. -/
@[simp] theorem frameOfBytes_frameBytes (f : Frame) : frameOfBytes (frameBytes f) = some f := by
  rw [frameOfBytes, frameBytes, dif_pos f.length_toList]
  rfl

/-- The only frame a byte sequence can make is the one with those bytes. -/
theorem frameOfBytes_eq_some {bs : List Byte} {f : Frame} : frameOfBytes bs = some f ↔ frameBytes f = bs := by
  constructor
  · intro h
    unfold frameOfBytes at h
    split at h <;> cases h
    rfl
  · rintro rfl
    exact frameOfBytes_frameBytes f

/-- A byte sequence makes a frame exactly when it has 11 bytes. -/
theorem frameOfBytes_isSome (bs : List Byte) : (frameOfBytes bs).isSome = decide (bs.length = 11) := by
  unfold frameOfBytes
  split <;> simp [*]

/-- Two frames with the same eleven bytes are the same frame. -/
theorem frame_ext {f g : Frame} (h : ∀ k : Fin 11, f[k] = g[k]) : f = g :=
  Vector.ext fun i hi => h ⟨i, hi⟩

/-! ### Checksum Engine -/

/-- A byte more is a step more. -/
theorem foldl_crc8Step_cons (T : CrcTable) (rv x : Byte) (span : List Byte) :
    (x :: span).foldl (crc8Step T) rv = span.foldl (crc8Step T) (crc8Step T rv x) := rfl

/-! ### Frame Codec -/

theorem complementOk_iff (f : Frame) : complementOk f = true ↔ f[4] ^^^ f[5] = 0xFF := by
  simp [complementOk]

theorem checksumOk_iff (T : CrcTable) (f : Frame) :
    checksumOk T f = true ↔ crc8 T [f[0], f[1], f[2], f[3], f[4], f[5]] = f[6] := by
  simp [checksumOk, checksumSpan]

theorem validFrame_iff (T : CrcTable) (f : Frame) :
    ValidFrame T f ↔ complementOk f = true ∧ checksumOk T f = true := by
  rw [complementOk_iff, checksumOk_iff, ValidFrame]

/-- Decoding a frame has one of three outcomes, by the first check that fails. -/
theorem decodeFrame_cases (T : CrcTable) (f : Frame) :
    (complementOk f = false ∧ decodeFrame T f = .error .payloadMismatch)
    ∨ (complementOk f = true ∧ checksumOk T f = false ∧ decodeFrame T f = .error .checksumMismatch)
    ∨ (ValidFrame T f ∧ decodeFrame T f = .message (messageOfFrame f)) := by
  rw [validFrame_iff]
  unfold decodeFrame
  cases complementOk f <;> cases checksumOk T f <;> simp

/-- A valid frame decodes to its Message. -/
theorem decodeFrame_of_valid {T : CrcTable} {f : Frame} (h : ValidFrame T f) :
    decodeFrame T f = .message (messageOfFrame f) := by
  rw [validFrame_iff] at h
  simp [decodeFrame, h]

/-- A frame that is not valid decodes to an error. -/
theorem decodeFrame_of_not_valid {T : CrcTable} {f : Frame} (h : ¬ ValidFrame T f) : ∃ e, decodeFrame T f = .error e := by
  rcases decodeFrame_cases T f with ⟨_, h'⟩ | ⟨_, _, h'⟩ | ⟨hv, _⟩
  · exact ⟨_, h'⟩
  · exact ⟨_, h'⟩
  · exact absurd hv h

/-! ### Receive Deduplicator -/

/-- The number of times of the machine's width. -/
theorem two_pow_timeW : 2 ^ Config.timeW = 4294967296 := rfl

/-- The number of counts of the machine's width. -/
theorem two_pow_countW : 2 ^ Config.countW = 65536 := rfl

/-- A count of the machine is below 65536. -/
theorem count_lt (c : Count) : c.toNat < 65536 := c.isLt

/-- A time of the machine is below 2^32. -/
theorem time_lt (t : Time) : t.toNat < 4294967296 := t.isLt

/-- The counter's increment, as a number. -/
theorem saturatingIncrement_toNat {countW : Nat} (c : BitVec countW) :
    (saturatingIncrement c).toNat = min (c.toNat + 1) (2 ^ countW - 1) := by
  have := Nat.two_pow_pos countW
  rw [saturatingIncrement, BitVec.toNat_ofNat, Nat.mod_eq_of_lt (by omega)]

/-- The threshold test, as numbers: with a legal threshold the count before the increment is one less. -/
theorem reachesThreshold_iff {timeW countW : Nat} (P : Parameters timeW countW) (c : BitVec countW) :
    reachesThreshold P.minRepeats c = true ↔ c.toNat + 1 = P.minRepeats.toNat := by
  have h2 := P.legal
  have hlt := P.minRepeats.isLt
  have h1 : (1#countW).toNat = 1 := by
    rw [BitVec.toNat_ofNat, Nat.mod_eq_of_lt (by omega)]
  have hsub : (P.minRepeats - 1#countW).toNat = P.minRepeats.toNat - 1 := by
    rw [BitVec.toNat_sub, h1]
    have : 2 ^ countW - 1 + P.minRepeats.toNat = (P.minRepeats.toNat - 1) + 2 ^ countW := by omega
    rw [this, Nat.add_mod_right, Nat.mod_eq_of_lt (by omega)]
  rw [reachesThreshold, beq_iff_eq, ← BitVec.toNat_inj, hsub]
  omega

/-- The distinctness test, as rule R74 words it. -/
theorem isSameEvent_iff {timeW countW : Nat} (timeout : BitVec timeW) (ds : DedupState timeW countW) (m : Message)
    (t : BitVec timeW) :
    isSameEvent timeout ds m t = true ↔ ds.valid = true ∧ m.networkId = ds.net ∧ m.deviceId = ds.dev ∧ m.payload = ds.pay
      ∧ (t - ds.last).toNat ≤ timeout.toNat := by
  simp [isSameEvent, sameIdentity, arrivalGap, BitVec.le_def, and_assoc]

/-- The machine's distinctness test is `SameEvent`. -/
theorem isSameEvent_iff_SameEvent (s : State) (m : Message) (t : Time) :
    isSameEvent s.params.timeout s.ds m t = true ↔ SameEvent s m t :=
  isSameEvent_iff _ _ _ _

/-- On the same event the deduplicator counts, and emits the tracked identity when the count reaches the threshold. -/
theorem dedupStep_same {timeW countW : Nat} {P : Parameters timeW countW} {ds : DedupState timeW countW} {m : Message}
    {t : BitVec timeW} (h : isSameEvent P.timeout ds m t = true) :
    dedupStep P ds m t = (sameEventTransition ds t,
      if reachesThreshold P.minRepeats ds.count then some (trackedEvent ds) else none) := by
  simp [dedupStep, h]

/-- On a new event the deduplicator tracks the Message and emits nothing. -/
theorem dedupStep_new {timeW countW : Nat} {P : Parameters timeW countW} {ds : DedupState timeW countW} {m : Message}
    {t : BitVec timeW} (h : isSameEvent P.timeout ds m t = false) :
    dedupStep P ds m t = (newEventTransition m t, none) := by
  simp [dedupStep, h]

/-- An empty slot matches no Message. -/
theorem isSameEvent_of_empty {timeW countW : Nat} (timeout : BitVec timeW) (ds : DedupState timeW countW) (m : Message)
    (t : BitVec timeW) (h : ds.valid = false) : isSameEvent timeout ds m t = false := by
  simp [isSameEvent, h]

end Sys2Proof.Machine
end

