-- ==== Sys2Proof/Laws/PerInstr.lean ====
section
/-! SUPPORT. Statements about every instruction as syntax, one lemma per constructor. -/

namespace Sys2Proof.Laws

open Sys2Proof Sys2Proof.Machine

/-- The word the encoder writes for an instruction passes the boundary's check of words. -/
def EncodedWordWellFormed.Statement (i : Instr) : Prop :=
  (encode i).wellFormed = true

theorem EncodedWordWellFormed.crc8 (span : List Byte) : EncodedWordWellFormed.Statement (.crc8 span) := rfl

theorem EncodedWordWellFormed.encode (n d : Id32) (p : Byte) : EncodedWordWellFormed.Statement (.encode n d p) := rfl

theorem EncodedWordWellFormed.decode (f : Frame) : EncodedWordWellFormed.Statement (.decode f) := by
  change ((frameBytes f).length == 11) = true
  simp

theorem EncodedWordWellFormed.dedup (m : Message) (t : Time) : EncodedWordWellFormed.Statement (.dedup m t) := rfl

theorem EncodedWordWellFormed.recv (f : Frame) (t : Time) : EncodedWordWellFormed.Statement (.recv f t) := by
  change ((frameBytes f ++ be32 t).length == 15) = true
  simp

theorem EncodedWordWellFormed.frame (f : Frame) : EncodedWordWellFormed.Statement (.frame f) := by
  change (frameOfBytes (frameBytes f)).isSome = true
  simp

end Sys2Proof.Laws
end

