-- ==== Sys2Proof/Laws/Step.lean ====
section
/-! SUPPORT. What each meaning and a step can do: each meaning as one equation, the step by its input. -/

namespace Sys2Proof.Machine

@[simp] theorem exec_crc8 (span : List Byte) (s : State) :
    exec (.crc8 span) s = .next (s.deliver { crc := some (crc8 s.params.crcTable span) }) := rfl

@[simp] theorem exec_encode (n d : Id32) (p : Byte) (s : State) :
    exec (.encode n d p) s = .next (s.deliver { frame := some (buildFrame s.params.crcTable n d p) }) := rfl

@[simp] theorem exec_dedup (m : Message) (t : Time) (s : State) :
    exec (.dedup m t) s = .next ({ s with ds := (dedupStep s.params s.ds m t).1 }.deliver
      { event := (dedupStep s.params s.ds m t).2 }) := rfl

@[simp] theorem exec_frame (f : Frame) (s : State) : exec (.frame f) s = .refused .frameIsNotAnOperation := rfl

/-- DECODE by the outcome of decoding the frame. -/
theorem exec_decode_message {f : Frame} {s : State} {m : Message} (h : decodeFrame s.params.crcTable f = .message m) :
    exec (.decode f) s = .next (s.deliver { status := some .ok, message := some m }) := by
  simp [exec, execDecode, h]

theorem exec_decode_error {f : Frame} {s : State} {e : FrameError} (h : decodeFrame s.params.crcTable f = .error e) :
    exec (.decode f) s = .next (s.raiseFrameError e) := by
  simp [exec, execDecode, h]

/-- RECV by the outcome of decoding the frame. -/
theorem exec_recv_message {f : Frame} {t : Time} {s : State} {m : Message}
    (h : decodeFrame s.params.crcTable f = .message m) :
    exec (.recv f t) s = .next ({ s with ds := (dedupStep s.params s.ds m t).1 }.deliver
      { status := some .ok, event := (dedupStep s.params s.ds m t).2 }) := by
  simp [exec, execRecv, h]

theorem exec_recv_error {f : Frame} {t : Time} {s : State} {e : FrameError}
    (h : decodeFrame s.params.crcTable f = .error e) :
    exec (.recv f t) s = .next (s.raiseFrameError e) := by
  simp [exec, execRecv, h]

/-- Everything an operation with a next state can do to it: deliver outputs, and, for DEDUP and RECV of a valid frame, one
transition of the deduplicator. -/
theorem exec_cases {i : Instr} {s t : State} (h : exec i s = .next t) :
    (∃ o, t = s.deliver o ∧ o.event = none ∧ (∀ m, o.message = some m → o.status = some .ok))
    ∨ (∃ m u st, t = { s with ds := (dedupStep s.params s.ds m u).1 }.deliver
          { status := st, event := (dedupStep s.params s.ds m u).2 }
        ∧ ((i = .dedup m u ∧ st = none)
          ∨ ∃ f, i = .recv f u ∧ ValidFrame s.params.crcTable f ∧ m = messageOfFrame f ∧ st = some .ok)) := by
  cases i with
  | crc8 span => cases h; exact .inl ⟨_, rfl, rfl, by simp⟩
  | encode n d p => cases h; exact .inl ⟨_, rfl, rfl, by simp⟩
  | decode f =>
    rcases decodeFrame_cases s.params.crcTable f with ⟨_, e⟩ | ⟨_, _, e⟩ | ⟨_, e⟩
    · rw [exec_decode_error e] at h; cases h; exact .inl ⟨_, rfl, rfl, by simp⟩
    · rw [exec_decode_error e] at h; cases h; exact .inl ⟨_, rfl, rfl, by simp⟩
    · rw [exec_decode_message e] at h; cases h; exact .inl ⟨_, rfl, rfl, by simp⟩
  | dedup m u => cases h; exact .inr ⟨m, u, none, rfl, .inl ⟨rfl, rfl⟩⟩
  | recv f u =>
    rcases decodeFrame_cases s.params.crcTable f with ⟨_, e⟩ | ⟨_, _, e⟩ | ⟨hv, e⟩
    · rw [exec_recv_error e] at h; cases h; exact .inl ⟨_, rfl, rfl, by simp⟩
    · rw [exec_recv_error e] at h; cases h; exact .inl ⟨_, rfl, rfl, by simp⟩
    · rw [exec_recv_message e] at h; cases h
      exact .inr ⟨_, u, _, rfl, .inr ⟨f, rfl, hv, rfl, rfl⟩⟩
  | frame f => cases h

/-- Everything a step with a next state can be: the reset input, or an instruction. -/
theorem step_cases {s t : State} (h : step s = .next t) :
    (∃ rest, s.pending = .reset :: rest ∧ t = State.applyReset { s with pending := rest })
    ∨ (∃ w rest i, s.pending = .word w :: rest ∧ decode w = .ok i ∧ exec i { s with pending := rest } = .next t) := by
  unfold step at h
  split at h
  · cases h
  · cases h
    exact .inl ⟨_, ‹_›, rfl⟩
  · split at h
    · exact .inr ⟨_, _, _, ‹_›, ‹_›, h⟩
    · cases h

/-- An operation leaves the host's further inputs alone. -/
theorem exec_pending {i : Instr} {s t : State} (h : exec i s = .next t) : t.pending = s.pending := by
  rcases exec_cases h with ⟨o, rfl, _⟩ | ⟨m, u, st, rfl, _⟩ <;> rfl

end Sys2Proof.Machine
end

