-- ==== Sys2Proof/Tests/Slice0.lean ====
section
/-! SUPPORT. Tests of the model: each expected value is the spec's (the vector of spec/95_test_vectors.md is named) or worked from its
rules by hand. The theorems named witness_… show concrete values that meet the hypotheses of a statement together. -/

namespace Sys2Proof.Tests

open Sys2Proof Sys2Proof.Machine

/-- Message `A` of spec/95_test_vectors.md section 2.4. -/
def msgA : Message := ⟨0x12345678, 0x9ABCDEF0, 0x04⟩

/-- Message `B`: `A` with another `device_id`. -/
def msgB : Message := ⟨0x12345678, 0x11111111, 0x04⟩

/-- The frame `fa` of Message `A` (EV-1). -/
def frameA : Frame := #v[0x12, 0x34, 0x56, 0x78, 0x04, 0xFB, 0xDA, 0x9A, 0xBC, 0xDE, 0xF0]

/-- A state with the default table, the given DedupState, window and threshold, nothing presented and nothing delivered. -/
def st (ds : DedupState 32 16) (timeout : Time := 1000) (minRepeats : Count := 2)
    (legal : 2 ≤ minRepeats.toNat := by decide) : State :=
  { ds := ds, params := { crcTable := defaultCrcTable, timeout := timeout, minRepeats := minRepeats, legal := legal }
    pending := [], out := {} }

/-- The empty slot. -/
def emptyDs : DedupState 32 16 := DedupState.empty 32 16

/-- `A` tracked with a count, last seen at a time. -/
def trackA (count : Count) (last : Time) : DedupState 32 16 := ⟨true, 0x12345678, 0x9ABCDEF0, 0x04, count, last⟩

/-- The state after an operation, and the state itself where there is none. -/
def after (i : Instr) (s : State) : State :=
  match exec i s with
  | .next t => t
  | .fault _ => s
  | .refused _ => s

/-! ### Meanings, on the spec's vectors -/

/-- CV-24. -/
theorem test_crc8_cv24 : (after (.crc8 [0xDE, 0xAD, 0xBE, 0xEF, 0x01, 0xFE]) (st emptyDs)).out.crc = some 0xBB := by decide

/-- CV-17: the bytes of CV-16 in another order give another checksum. -/
theorem test_crc8_cv17 : (after (.crc8 [0x03, 0x02, 0x01]) (st emptyDs)).out.crc = some 0x2B := by decide

/-- EV-5: the least significant byte is last. -/
theorem test_encode_ev5 : (after (.encode 0x00000001 0x00000002 0x80) (st emptyDs)).out.frame
    = some #v[0x00, 0x00, 0x00, 0x01, 0x80, 0x7F, 0x3D, 0x00, 0x00, 0x00, 0x02] := by decide

/-- EV-7: byte positions within each identifier. -/
theorem test_encode_ev7 : (after (.encode 0x00000100 0x01000000 0x55) (st emptyDs)).out.frame
    = some #v[0x00, 0x00, 0x01, 0x00, 0x55, 0xAA, 0xD6, 0x01, 0x00, 0x00, 0x00] := by decide

/-- DV-13: both checks fail and the complement check is reported. -/
theorem test_decode_dv13 :
    let o := (after (.decode #v[0x12, 0x34, 0x56, 0x78, 0x05, 0xFB, 0xDB, 0x9A, 0xBC, 0xDE, 0xF0]) (st emptyDs)).out
    o.status = some .payloadMismatch ∧ o.message = none := by decide

/-- DV-9: `device_id` is unprotected. -/
theorem test_decode_dv9 :
    let o := (after (.decode #v[0x12, 0x34, 0x56, 0x78, 0x04, 0xFB, 0xDA, 0x9A, 0xBC, 0xDE, 0x0F]) (st emptyDs)).out
    o.status = some .ok ∧ o.message = some ⟨0x12345678, 0x9ABCDE0F, 0x04⟩ := by decide

/-- DDV-7 step 1: the all-zero Message does not match the empty slot. -/
theorem test_dedup_ddv7 :
    let t := after (.dedup ⟨0, 0, 0⟩ 0) (st emptyDs)
    t.ds = ⟨true, 0, 0, 0, 1, 0⟩ ∧ emitBit t.out = false := by decide

/-- DDV-2 step 2: a gap of exactly `TIMEOUT` is inside the window, and the second sighting emits. -/
theorem test_dedup_ddv2 :
    let t := after (.dedup msgA 1000) (st (trackA 1 0))
    t.ds = trackA 2 1000 ∧ t.out.event = some ⟨0x12345678, 0x9ABCDEF0, 0x04⟩ := by decide

/-- RV-1 step 3. -/
theorem test_recv_rv1 :
    let t := after (.recv frameA 30) (st (trackA 1 10))
    t.ds = trackA 2 30 ∧ t.out.status = some .ok ∧ t.out.event = some ⟨0x12345678, 0x9ABCDEF0, 0x04⟩ := by decide

/-- RV-2 step 2: an invalid frame does not refresh the window. -/
theorem test_recv_rv2 :
    let t := after (.recv #v[0x12, 0x34, 0x56, 0x78, 0x04, 0xFB, 0xDB, 0x9A, 0xBC, 0xDE, 0xF0] 90) (st (trackA 1 0) 100)
    t.ds = trackA 1 0 ∧ t.out.status = some .checksumMismatch ∧ emitBit t.out = false := by decide

/-- DDV-6 steps 7 and 8: a counter of three bits saturates at 7 and does not wrap. -/
theorem test_dedupStep_ddv6 :
    let P : Parameters 32 3 := { crcTable := defaultCrcTable, timeout := 1000, minRepeats := 3 }
    dedupStep P ⟨true, 0x12345678, 0x9ABCDEF0, 0x04, 6, 60⟩ msgA 70
        = (⟨true, 0x12345678, 0x9ABCDEF0, 0x04, 7, 70⟩, none)
    ∧ dedupStep P ⟨true, 0x12345678, 0x9ABCDEF0, 0x04, 7, 70⟩ msgA 80
        = (⟨true, 0x12345678, 0x9ABCDEF0, 0x04, 7, 80⟩, none) := by decide

/-- P4 line 5: the reset input. -/
theorem test_step_reset : step { st (trackA 2 1102) with pending := [.reset] } = .next (st emptyDs) := by rfl

/-! ### Decoding, each word written from spec/95_test_vectors.md section 4 and the codes of rule R45 -/

theorem test_decode_crc8_word : decode (.operation 0b001 [0xDE, 0xAD]) = .ok (.crc8 [0xDE, 0xAD]) := by rfl

theorem test_decode_encode_word :
    decode (.operation 0b010 [0xDE, 0xAD, 0xBE, 0xEF, 0x00, 0xC0, 0xFF, 0xEE, 0x01])
      = .ok (.encode 0xDEADBEEF 0x00C0FFEE 0x01) := by rfl

theorem test_decode_decode_word :
    decode (.operation 0b011 [0x12, 0x34, 0x56, 0x78, 0x04, 0xFB, 0xDA, 0x9A, 0xBC, 0xDE, 0xF0]) = .ok (.decode frameA) := by rfl

/-- P3 line 1b with another time. -/
theorem test_decode_dedup_word :
    decode (.operation 0b100 [0x12, 0x34, 0x56, 0x78, 0x9A, 0xBC, 0xDE, 0xF0, 0x04, 0x00, 0x00, 0x04, 0x25])
      = .ok (.dedup msgA 1061) := by rfl

/-- P2 line 5. -/
theorem test_decode_recv_word :
    decode (.operation 0b101 [0x12, 0x34, 0x56, 0x78, 0x04, 0xFB, 0xDA, 0x9A, 0xBC, 0xDE, 0xF0, 0x00, 0x00, 0x05, 0x14])
      = .ok (.recv frameA 1300) := by rfl

/-- EV-1 as bytes on the wire. -/
theorem test_decode_frame_word :
    decode (.wire [0x12, 0x34, 0x56, 0x78, 0x04, 0xFB, 0xDA, 0x9A, 0xBC, 0xDE, 0xF0]) = .ok (.frame frameA) := by rfl

/-- The table's words of the five operations: the operand bytes the table gives no bits are zeros. -/
theorem test_table_words :
    [decodeTableWord 8 1, decodeTableWord 8 2, decodeTableWord 8 3, decodeTableWord 8 4, decodeTableWord 8 5]
      = [some (.crc8 []), some (.encode 0 0 0), some (.decode (Vector.replicate 11 0)), some (.dedup ⟨0, 0, 0⟩ 0),
         some (.recv (Vector.replicate 11 0) 0)]
    ∧ [decodeTableWord 8 0, decodeTableWord 8 6, decodeTableWord 8 7] = [none, none, none] := by decide

/-- The table's word of the wire format: EV-1, the first byte in bits 7 to 0. -/
theorem test_table_frame : decodeTableWord 88 0xF0DEBC9ADAFB0478563412 = some (.frame frameA) := by decide

/-- A table word is the first instruction after reset. -/
theorem test_withFetchWord_runs :
    step (State.reset.withFetchWord 8 5) = exec (.recv (Vector.replicate 11 0) 0) State.reset
    ∧ step (State.reset.withFetchWord 8 4) = exec (.dedup ⟨0, 0, 0⟩ 0) State.reset := ⟨rfl, rfl⟩

/-! ### The boundary's checks refuse (XV-1, XV-2, XV-3) -/

/-- XV-1. -/
theorem test_wellFormed_refuses_reserved :
    [HostWord.wellFormed (.operation 0b000 []), HostWord.wellFormed (.operation 0b110 []),
      HostWord.wellFormed (.operation 0b111 [0x01])] = [false, false, false] := by decide

/-- XV-3: DECODE with 10 bytes, RECV with the 12 bytes of a frame one too long, ENCODE with none, a wire frame of 10. -/
theorem test_wellFormed_refuses_lengths :
    [HostWord.wellFormed (.operation 0b011 (List.replicate 10 0)), HostWord.wellFormed (.operation 0b101 (List.replicate 16 0)),
      HostWord.wellFormed (.operation 0b010 []), HostWord.wellFormed (.wire (List.replicate 10 0))]
      = [false, false, false, false] := by decide

/-- A word of the wrong length is refused by name. -/
theorem test_decode_refuses_length : decode (.operation 0b011 (List.replicate 12 0)) = .error (.wrongLength 12) := by rfl

/-- XV-2, and a window that does not fit. -/
theorem test_configuration_refused :
    [configurationWellFormed 1000 0, configurationWellFormed 1000 1, configurationWellFormed 1000 65536,
      configurationWellFormed 4294967296 2] = [false, false, false, false] := by decide

/-! ### Witnesses: the hypotheses of the statements can be met -/

theorem frameA_valid : ValidFrame defaultCrcTable frameA := by
  unfold ValidFrame
  decide

/-- A frame that fails only the checksum check (DV-5). -/
def frameBad : Frame := #v[0x12, 0x34, 0x56, 0x78, 0x04, 0xFB, 0xDB, 0x9A, 0xBC, 0xDE, 0xF0]

theorem frameBad_not_valid : ¬ ValidFrame defaultCrcTable frameBad := by
  unfold ValidFrame
  decide

/-- No Message is the same event as an empty slot. -/
theorem emptyDs_not_same : ¬ SameEvent (st emptyDs) msgA 0 := by
  unfold SameEvent
  decide

theorem witness_DecodeAfterEncodeGivesInstruction : Instr.wellFormed (.dedup msgA 5) = true := rfl

theorem witness_EncodeAfterDecodeGivesWord : decode (.operation 0b001 [0x5E]) = .ok (.crc8 [0x5E]) := rfl

theorem witness_ReservedCodesHaveNoStep :
    ((0b110 : BitVec 3) = 0b000 ∨ (0b110 : BitVec 3) = 0b110 ∨ (0b110 : BitVec 3) = 0b111)
    ∧ { st emptyDs with pending := [.word (.operation 0b110 [])] }.pending = .word (.operation 0b110 []) :: [] := by decide

theorem witness_StepRunsDecodedInstruction :
    { st emptyDs with pending := [.word (.operation 0b001 [0x5E]), .reset] }.pending
      = .word (.operation 0b001 [0x5E]) :: [.reset]
    ∧ decode (.operation 0b001 [0x5E]) = .ok (.crc8 [0x5E]) ∧ Instr.wellFormed (.crc8 [0x5E]) = true := ⟨rfl, rfl, rfl⟩

/-- Each branch of the statement about which inputs have a step, and one input that has none. -/
theorem witness_StepExistsExactlyForOperationsAndReset :
    IsOperationWord (.operation 0b001 []) ∧ IsOperationWord (.operation 0b101 (List.replicate 15 0))
    ∧ ¬ IsOperationWord (.operation 0b101 (List.replicate 14 0)) ∧ ¬ IsOperationWord (.wire (List.replicate 11 0)) := by
  simp [IsOperationWord]

/-- Both ends of the legal range, and a value beside each. -/
theorem witness_ConfigurationTakenExactlyInLegalRange :
    (1000 < 2 ^ 32 ∧ 2 ≤ 2 ∧ 2 ≤ 65535) ∧ (2 ^ 32 - 1 < 2 ^ 32 ∧ 2 ≤ 65535 ∧ 65535 ≤ 65535)
    ∧ ¬ (1000 < 2 ^ 32 ∧ 2 ≤ 1 ∧ 1 ≤ 65535) ∧ ¬ (1000 < 2 ^ 32 ∧ 2 ≤ 65536 ∧ 65536 ≤ 65535) := by decide

theorem witness_ProgramRunsInIssueOrder :
    runOperations [.recv frameA 10, .crc8 [0x01]] (st emptyDs)
      = some ([{ status := some .ok }, { crc := some 0x5E }], { st (trackA 1 10) with out := { crc := some 0x5E } }) := by rfl

theorem witness_ResultsDependOnlyOnOperandsParametersAndDedupState :
    (st emptyDs).ds = { st emptyDs with pending := [.reset] }.ds ∧ (st emptyDs).params = { st emptyDs with pending := [.reset] }.params
    ∧ exec (.crc8 [0x01]) (st emptyDs) = .next { st emptyDs with out := { crc := some 0x5E } } := ⟨rfl, rfl, rfl⟩

theorem witness_PureOperationsReadOnlyOperandsAndTable :
    (st emptyDs).params.crcTable = (st (trackA 5 7) 3 9).params.crcTable
    ∧ ((∃ span, Instr.crc8 [0x01] = .crc8 span) ∨ (∃ n d p, Instr.crc8 [0x01] = .encode n d p)
      ∨ (∃ f, Instr.crc8 [0x01] = .decode f)) := ⟨rfl, .inl ⟨_, rfl⟩⟩

theorem witness_ResetInputEmptiesSlot : { st (trackA 2 9) with pending := [.reset] }.pending = .reset :: [] := rfl

theorem witness_StepKeepsSoundStates :
    State.Inv { st (trackA 1 0) with pending := [.word (encode (.dedup msgA 5))] }
    ∧ step { st (trackA 1 0) with pending := [.word (encode (.dedup msgA 5))] }
      = .next { st (trackA 2 5) with out := { event := some ⟨0x12345678, 0x9ABCDEF0, 0x04⟩ } } :=
  ⟨⟨⟨by decide, by decide⟩, by simp [State.OutputsSound, st]⟩, rfl⟩

/-- A count that drops: a new event replaces a count of 7. -/
theorem witness_TrackedUntilResetAndCountDropsOnlyToOne :
    step { st (trackA 7 0) with pending := [.word (encode (.dedup msgB 5))] }
      = .next (st ⟨true, 0x12345678, 0x11111111, 0x04, 1, 5⟩)
    ∧ (trackA 7 0).valid = true ∧ ([HostInput.word (encode (.dedup msgB 5))] : List HostInput).head? ≠ some .reset
    ∧ (1 : Count).toNat < (7 : Count).toNat := ⟨rfl, rfl, by decide, by decide⟩

theorem witness_NoStepWritesParameters :
    step { st (trackA 7 0) with pending := [.reset] } = .next (st emptyDs) := rfl

theorem witness_OnlyDedupAndValidRecvWriteSlot :
    exec (.recv frameA 10) (st emptyDs) = .next { st (trackA 1 10) with out := { status := some .ok } }
    ∧ trackA 1 10 ≠ emptyDs := ⟨rfl, by decide⟩

theorem witness_EventOnlyWhenCountBecomesThreshold :
    exec (.recv frameA 30) (st (trackA 1 10))
      = .next { st (trackA 2 30) with out := { status := some .ok, event := some ⟨0x12345678, 0x9ABCDEF0, 0x04⟩ } } := rfl

/-- The default table meets the hypothesis about `T[0]`, of `Crc8FoldsTheTable`, `CheckValueOfDefaultTable` and
`EncodeBuildsElevenBytes` about the table, and `EV-1` the one about a valid frame. -/
theorem witness_ZeroEntryMakesChecksumResidueZero :
    tableEntry defaultCrcTable 0 = 0 ∧ (st emptyDs).params.crcTable = defaultCrcTable ∧ ValidFrame defaultCrcTable frameA :=
  ⟨by decide, rfl, frameA_valid⟩

theorem witness_StatusCodesClassifyFrames :
    (Instr.decode frameA = .decode frameA ∨ Instr.decode frameA = .recv frameA 0)
    ∧ (Instr.recv frameBad 3 = .decode frameBad ∨ Instr.recv frameBad 3 = .recv frameBad 3) := ⟨.inl rfl, .inr rfl⟩

theorem witness_ValidFramesAreExactlyEncodings :
    exec (.decode frameA) (st emptyDs) = .next { st emptyDs with out := { status := some .ok, message := some msgA } } := rfl

theorem witness_FramesDifferOutsideCheckBytes :
    msgA ≠ msgB ∧ ValidFrame defaultCrcTable frameA ∧ ∀ k : Fin 11, k ≠ 5 → k ≠ 6 → frameA[k] = frameA[k] :=
  ⟨by decide, frameA_valid, fun _ _ _ => rfl⟩

/-- A valid frame, a byte pair that is not complementary, and another checksum byte. -/
theorem witness_CorruptionIsReportedByKind :
    ValidFrame (st emptyDs).params.crcTable frameA
    ∧ (Vector.replicate 11 0 : Frame)[4] ^^^ (Vector.replicate 11 0 : Frame)[5] ≠ 0xFF ∧ (0xDB : Byte) ≠ frameA[6] :=
  ⟨frameA_valid, by decide, by decide⟩

/-- DV-9 differs from `fa` at offset 10 alone. -/
theorem witness_DeviceIdIsNotProtected :
    ValidFrame (st emptyDs).params.crcTable frameA
    ∧ ∀ k : Fin 11, k.val < 7 →
      (#v[0x12, 0x34, 0x56, 0x78, 0x04, 0xFB, 0xDA, 0x9A, 0xBC, 0xDE, 0x0F] : Frame)[k] = frameA[k] :=
  ⟨frameA_valid, by decide⟩

/-- Both ends of the protected span. -/
theorem witness_SingleByteChangesAreDetected :
    ValidFrame (st emptyDs).params.crcTable frameA ∧ (st emptyDs).params.crcTable = defaultCrcTable
    ∧ ((0 : Fin 11).val < 6 ∧ (0x13 : Byte) ≠ frameA[(0 : Fin 11)]) ∧ ((5 : Fin 11).val < 6 ∧ (0xEB : Byte) ≠ frameA[(5 : Fin 11)]) :=
  ⟨frameA_valid, rfl, by decide, by decide⟩

theorem witness_IdentifiersAreBigEndian : ValidFrame (st emptyDs).params.crcTable frameA := frameA_valid

/-- A frame that fails a check, under DECODE and under RECV. -/
theorem witness_FrameErrorChangesOnlyStatus :
    ¬ ValidFrame (st emptyDs).params.crcTable frameBad
    ∧ (Instr.decode frameBad = .decode frameBad ∨ Instr.decode frameBad = .recv frameBad 3) := ⟨frameBad_not_valid, .inl rfl⟩

theorem witness_NextOperationUnaffectedByFrameError :
    exec (.recv frameBad 3) (st (trackA 1 0)) = .next { st (trackA 1 0) with out := { status := some .checksumMismatch } }
    ∧ ¬ ValidFrame (st (trackA 1 0)).params.crcTable frameBad := ⟨rfl, frameBad_not_valid⟩

/-- Even a slot whose fields equal the Message is empty when its valid bit is 0. -/
theorem witness_EmptySlotMatchesNothing : (st { trackA 1 0 with valid := false }).ds.valid = false := rfl

/-- Each clause of `PhaseTransitions`: empty; a new event; below and staying below; the crossing; at the threshold. -/
theorem witness_PhaseTransitions :
    phaseOf 3 emptyDs = .empty ∧ ¬ SameEvent (st (trackA 1 0)) msgB 5
    ∧ (SameEvent (st (trackA 1 0) 1000 3) msgA 5 ∧ phaseOf 3 (trackA 1 0) = .belowThreshold ∧ (1 : Count).toNat < (3 : Count).toNat - 1)
    ∧ (SameEvent (st (trackA 2 0) 1000 3) msgA 5 ∧ phaseOf 3 (trackA 2 0) = .belowThreshold ∧ (2 : Count).toNat = (3 : Count).toNat - 1)
    ∧ (SameEvent (st (trackA 3 0) 1000 3) msgA 5 ∧ phaseOf 3 (trackA 3 0) = .atOrAboveThreshold) := by
  unfold SameEvent
  decide

/-- The step clause of `PhaseTransitions`: the reset input leads to empty. -/
theorem witness_PhaseTransitions_empty :
    step { st (trackA 3 0) with pending := [.reset] } = .next (st emptyDs)
    ∧ phaseOf (st emptyDs).params.minRepeats (st emptyDs).ds = .empty := ⟨rfl, rfl⟩

/-- Each clause of `GapIsModularAndWindowClosed` at its boundary: a gap of `TIMEOUT`, one more, one unit back, and the largest
window reaching back one unit. -/
theorem witness_GapIsModularAndWindowClosed :
    ((st (trackA 1 0)).ds.valid = true ∧ msgA = ⟨(trackA 1 0).net, (trackA 1 0).dev, (trackA 1 0).pay⟩)
    ∧ (1000 < 2 ^ 32 ∧ 1000 ≤ (1000 : Time).toNat) ∧ (1001 < 2 ^ 32 ∧ (1000 : Time).toNat < 1001)
    ∧ (0 < 1 ∧ 1 < 2 ^ 32 ∧ (1000 : Time).toNat < 2 ^ 32 - 1) ∧ 2 ^ 32 - 1 ≤ (0xFFFFFFFF : Time).toNat := by decide

theorem witness_CornerWindows :
    (st (trackA 1 7) 0).params.timeout = 0 ∧ (st (trackA 1 7) 0xFFFFFFFF).params.timeout = 0xFFFFFFFF
    ∧ (trackA 1 7).valid = true ∧ msgA = ⟨(trackA 1 7).net, (trackA 1 7).dev, (trackA 1 7).pay⟩ := by decide

theorem witness_SaturatedCounterStaysSilent :
    SameEvent (st (trackA 0xFFFF 0)) msgA 5 ∧ (st (trackA 0xFFFF 0)).ds.count = 0xFFFF := by
  unfold SameEvent
  decide

/-- Agreement at saturation: a wide count of 70000 beside the narrow maximum. -/
theorem witness_UnboundedCounterEmitsTheSame :
    WideDedup.Agrees ⟨true, 0x12345678, 0x9ABCDEF0, 0x04, 70000, 0⟩ (trackA 0xFFFF 0) := by
  refine ⟨rfl, rfl, rfl, rfl, rfl, ?_⟩
  rfl

theorem witness_BurstEmitsOnceAtThreshold :
    ¬ SameEvent (st emptyDs) msgA 0 ∧ WithinWindow (st emptyDs).params.timeout 0 [1000, 1500] :=
  ⟨emptyDs_not_same, by decide, by decide, trivial⟩

theorem witness_LiveSlotContinuesItsCount :
    (st (trackA 1 0)).ds.valid = true ∧ msgA = ⟨(trackA 1 0).net, (trackA 1 0).dev, (trackA 1 0).pay⟩
    ∧ WithinWindow (st (trackA 1 0)).params.timeout (trackA 1 0).last [1000, 1500] :=
  ⟨rfl, rfl, by decide, by decide, trivial⟩

/-- DDV-9: two bursts 1100 apart. -/
theorem witness_SeparatedBurstsAreTwoEvents :
    ¬ SameEvent (st emptyDs) msgA 0 ∧ WithinWindow (st emptyDs).params.timeout 0 [500, 900]
    ∧ (st emptyDs).params.timeout.toNat < ((2000 : Time) - lastTime 0 [500, 900]).toNat
    ∧ WithinWindow (st emptyDs).params.timeout 2000 [2500] :=
  ⟨emptyDs_not_same, ⟨by decide, by decide, trivial⟩, by decide, by decide, trivial⟩

/-- DDV-10: two alternating Messages. -/
theorem witness_InterleavedMessagesNeverEmit :
    ¬ SameEvent (st emptyDs) msgA 0 ∧ EachDiffers msgA [(msgB, 1), (msgA, 2), (msgB, 3)] :=
  ⟨emptyDs_not_same, by decide, by decide, by decide, trivial⟩

/-- Both cases of `RecvEqualsDecodeThenDedup`: a Message and none. -/
theorem witness_RecvEqualsDecodeThenDedup :
    (after (.decode frameA) (st emptyDs)).out.message = some msgA ∧ (after (.decode frameBad) (st emptyDs)).out.message = none := by
  decide

/-- P2 lines 1 to 3 in small: noise between two sightings. -/
theorem witness_NoiseIsInvisibleToDeduplicator :
    runOperations [.recv frameA 10, .recv frameBad 20, .recv frameA 30] (st emptyDs)
      = some ([{ status := some .ok }, { status := some .checksumMismatch },
          { status := some .ok, event := some ⟨0x12345678, 0x9ABCDEF0, 0x04⟩ }],
        { st (trackA 2 30) with out := { status := some .ok, event := some ⟨0x12345678, 0x9ABCDEF0, 0x04⟩ } }) := by rfl

end Sys2Proof.Tests
end

/-! ### Proofs: the parameters of a run (rules R17, R18, R115) -/

namespace Sys2Proof.Machine

/-- An operation leaves the checksum table, the window and the threshold alone: delivering outputs and a transition of the
deduplicator are all it can do (rules R17, R18). -/
theorem exec_params {i : Instr} {s t : State} (h : exec i s = .next t) : t.params = s.params := by
  rcases exec_cases h with ⟨o, rfl, _⟩ | ⟨m, u, st, rfl, _⟩
  · exact State.deliver_params s o
  · rw [State.deliver_params]

/-- Settles O17, by the two things a step can be: the reset input, and an operation on the state without the host's next word;
taking that input away leaves the parameters too. -/
theorem noStepWritesParameters : Obligations.NoStepWritesParameters := by
  intro s t h
  rcases step_cases h with ⟨rest, _, rfl⟩ | ⟨w, rest, i, _, _, hexec⟩
  · rw [State.applyReset_params]
  · rw [exec_params hexec]

end Sys2Proof.Machine

/-! ### Proofs: the two identifiers of a frame (rule R27) -/

namespace Sys2Proof.Machine

/-- A byte appended to a value takes the weight 1 and moves the value up by one byte. -/
theorem toNat_append_byte {w : Nat} (v : BitVec w) (b : Byte) : (v ++ b).toNat = v.toNat * 2 ^ 8 + b.toNat := by
  rw [BitVec.toNat_append, ← Nat.shiftLeft_add_eq_or_of_lt b.isLt, Nat.shiftLeft_eq]

/-- The weights of the four bytes of an assembled value: the lowest offset weighs most (rule R27). -/
theorem unbe32_toNat (b0 b1 b2 b3 : Byte) :
    (unbe32 b0 b1 b2 b3).toNat = b0.toNat * 2 ^ 24 + b1.toNat * 2 ^ 16 + b2.toNat * 2 ^ 8 + b3.toNat := by
  simp only [unbe32, toNat_append_byte]
  omega

/-- The fields of a frame that ENCODE builds are those it was built from, under every checksum table. -/
@[simp] theorem messageOfFrame_buildFrame (T : CrcTable) (n d : Id32) (p : Byte) :
    messageOfFrame (buildFrame T n d p) = ⟨n, d, p⟩ :=
  congrArg₂ (Message.mk · · p) (unbe32_extract n) (unbe32_extract d)

/-- The identifiers a frame carries, as numbers: offsets 0 to 3 and offsets 7 to 10, most significant byte first. -/
theorem messageOfFrame_identifiers_toNat (b : Frame) :
    (messageOfFrame b).networkId.toNat
        = b[0].toNat * 2 ^ 24 + b[1].toNat * 2 ^ 16 + b[2].toNat * 2 ^ 8 + b[3].toNat
    ∧ (messageOfFrame b).deviceId.toNat
        = b[7].toNat * 2 ^ 24 + b[8].toNat * 2 ^ 16 + b[9].toNat * 2 ^ 8 + b[10].toNat :=
  ⟨unbe32_toNat .., unbe32_toNat ..⟩

/-- Settles O36: both directions read the weights off the frame's fields; for ENCODE the fields of the frame it delivers are its
operands, for DECODE the fields of a valid frame are the Message it delivers. -/
theorem identifiersAreBigEndian : Obligations.IdentifiersAreBigEndian := by
  constructor
  · intro n d p s
    have weights := messageOfFrame_identifiers_toNat (buildFrame s.params.crcTable n d p)
    rw [messageOfFrame_buildFrame] at weights
    exact ⟨_, exec_encode n d p s, weights⟩
  · intro b s hvalid
    exact ⟨_, exec_decode_message (decodeFrame_of_valid hvalid), messageOfFrame_identifiers_toNat b⟩

end Sys2Proof.Machine

/-! ### Proofs: the encoding of operations, frames and status codes (rules R37, R45, R48) -/

namespace Sys2Proof.Machine

/-! #### The status codes (rule R48) -/

theorem statusCode_eq_zero_iff (st : Status) : statusCode st = 0 ↔ st = .ok := by
  cases st <;> simp [statusCode]

theorem statusCode_eq_one_iff (st : Status) : statusCode st = 1 ↔ st = .payloadMismatch := by
  cases st <;> simp [statusCode]

theorem statusCode_eq_two_iff (st : Status) : statusCode st = 2 ↔ st = .checksumMismatch := by
  cases st <;> simp [statusCode]

theorem statusCode_ne_three (st : Status) : statusCode st ≠ 3 := by
  cases st <;> simp [statusCode]

/-! #### The status a frame decodes to (rules R42, R97) -/

/-- The status with which DECODE and RECV report a result of decoding. -/
def DecodeResult.status : DecodeResult → Status
  | .message _ => .ok
  | .error e => statusOfError e

/-- The Message DECODE delivers for a result of decoding, if any. -/
def DecodeResult.deliveredMessage : DecodeResult → Option Message
  | .message m => some m
  | .error _ => none

theorem DecodeResult.deliveredMessage_isSome_iff (r : DecodeResult) : r.deliveredMessage.isSome = true ↔ r.status = .ok := by
  rcases r with m | (_ | _) <;> simp [deliveredMessage, status, statusOfError]

/-- The status names the first check that fails: `ok` none, `payloadMismatch` the complement check, `checksumMismatch` the checksum
check alone. -/
theorem decodeFrame_status (T : CrcTable) (f : Frame) :
    ((decodeFrame T f).status = .ok ↔ ValidFrame T f)
    ∧ ((decodeFrame T f).status = .payloadMismatch ↔ f[4] ^^^ f[5] ≠ 0xFF)
    ∧ ((decodeFrame T f).status = .checksumMismatch ↔
        f[4] ^^^ f[5] = 0xFF ∧ crc8 T [f[0], f[1], f[2], f[3], f[4], f[5]] ≠ f[6]) := by
  rw [validFrame_iff, ne_eq, ne_eq, ← complementOk_iff, ← checksumOk_iff]
  rcases decodeFrame_cases T f with ⟨hcomp, hdec⟩ | ⟨hcomp, hsum, hdec⟩ | ⟨hvalid, hdec⟩
  · simp [hdec, hcomp, DecodeResult.status, statusOfError]
  · simp [hdec, hcomp, hsum, DecodeResult.status, statusOfError]
  · obtain ⟨hcomp, hsum⟩ := (validFrame_iff T f).mp hvalid
    simp [hdec, hcomp, hsum, DecodeResult.status]

/-- DECODE delivers the status and the Message of the result of decoding and changes nothing else (rules R55, R100). -/
theorem exec_decode (f : Frame) (s : State) :
    exec (.decode f) s = .next (s.deliver
      { status := some (decodeFrame s.params.crcTable f).status
        message := (decodeFrame s.params.crcTable f).deliveredMessage }) := by
  cases hdec : decodeFrame s.params.crcTable f with
  | message m => exact exec_decode_message hdec
  | error e => exact exec_decode_error hdec

/-- RECV delivers the same status as DECODE (rules R87, R100). -/
theorem exec_recv_status (f : Frame) (u : Time) (s : State) :
    ∃ t, exec (.recv f u) s = .next t ∧ t.out.status = some (decodeFrame s.params.crcTable f).status := by
  cases hdec : decodeFrame s.params.crcTable f with
  | message m => exact ⟨_, exec_recv_message hdec, rfl⟩
  | error e => exact ⟨_, exec_recv_error hdec, rfl⟩

/-- Settles O29: both operations deliver the status of decoding the frame, whose code names the first check that fails. -/
theorem statusCodesClassifyFrames : Obligations.StatusCodesClassifyFrames := by
  intro f u s i hi
  obtain ⟨hok, hpayload, hchecksum⟩ := decodeFrame_status s.params.crcTable f
  have delivered : ∃ t, exec i s = .next t ∧ t.out.status = some (decodeFrame s.params.crcTable f).status
      ∧ (i = .decode f → t.out.message = (decodeFrame s.params.crcTable f).deliveredMessage) := by
    rcases hi with rfl | rfl
    · exact ⟨_, exec_decode f s, rfl, fun _ => rfl⟩
    · obtain ⟨t, hexec, hstatus⟩ := exec_recv_status f u s
      exact ⟨t, hexec, hstatus, nofun⟩
  obtain ⟨t, hexec, hstatus, hmessage⟩ := delivered
  refine ⟨t, _, hexec, hstatus, (statusCode_eq_zero_iff _).trans hok, (statusCode_eq_one_iff _).trans hpayload,
    (statusCode_eq_two_iff _).trans hchecksum, statusCode_ne_three _, fun hdecode => ?_⟩
  rw [hmessage hdecode, statusCode_eq_zero_iff, DecodeResult.deliveredMessage_isSome_iff]

/-! #### The wire frame alone (rule R45) -/

/-- Settles O7: the refusal is the FRAME arm's only answer, whatever the bytes and the state. -/
theorem wireFrameAloneHasNoStep : Obligations.WireFrameAloneHasNoStep :=
  exec_frame

/-! #### The eleven bytes of ENCODE (rules R37, R53) -/

/-- The worked example of rule R53: the frame it prints, with the default table's checksum (log entry 1). -/
theorem buildFrame_defaultCrcTable_example :
    buildFrame defaultCrcTable 0x12345678 0x9ABCDEF0 0x04
      = #v[0x12, 0x34, 0x56, 0x78, 0x04, 0xFB, 0xDA, 0x9A, 0xBC, 0xDE, 0xF0] := by
  decide

/-- Settles O27: ENCODE delivers `buildFrame` and nothing else; the bytes of the statement are the model's, written by their
highest and lowest bit, and the worked example is `buildFrame` under the default table. -/
theorem encodeBuildsElevenBytes : Obligations.EncodeBuildsElevenBytes := by
  constructor
  · intro n d p s
    exact exec_encode n d p s
  · intro s htable
    rw [exec_encode, htable, buildFrame_defaultCrcTable_example]
    rfl

end Sys2Proof.Machine

/-! ### Proofs: the frame codec's operations as functions of operands and table (rules R54, R55, R57, R66) -/

namespace Sys2Proof.Machine

/-- Settles O11: each of the three operations delivers outputs written in its operands and `s.params.crcTable` alone, so the outputs
from the first state are those from any state with the same table. -/
theorem pureOperationsReadOnlyOperandsAndTable : Obligations.PureOperationsReadOnlyOperandsAndTable := by
  intro i s₁ s₂ htable hpure
  rcases hpure with ⟨span, rfl⟩ | ⟨n, d, p, rfl⟩ | ⟨f, rfl⟩
  · exact ⟨_, exec_crc8 span s₁, htable ▸ exec_crc8 span s₂⟩
  · exact ⟨_, exec_encode n d p s₁, htable ▸ exec_encode n d p s₂⟩
  · exact ⟨_, exec_decode f s₁, htable ▸ exec_decode f s₂⟩

/-- Settles O28, by the first check that fails: the complement check, the checksum check with the complement check passed, or
none, where the fields extracted are the statement's. -/
theorem decodeChecksThenExtracts : Obligations.DecodeChecksThenExtracts := by
  intro b s
  simp only [ne_eq, ← complementOk_iff, ← checksumOk_iff]
  rcases decodeFrame_cases s.params.crcTable b with ⟨hcomp, hdec⟩ | ⟨hcomp, hsum, hdec⟩ | ⟨hvalid, hdec⟩
  · rw [exec_decode_error hdec, if_pos (by simp [hcomp])]
    rfl
  · rw [exec_decode_error hdec, if_neg (by simp [hcomp]), if_pos (by simp [hsum])]
    rfl
  · obtain ⟨hcomp, hsum⟩ := (validFrame_iff s.params.crcTable b).mp hvalid
    rw [exec_decode_message hdec, if_neg (by simp [hcomp]), if_neg (by simp [hsum])]
    rfl

end Sys2Proof.Machine

/-! ### Proofs: the Checksum Engine (rules R63, R64) -/

namespace Sys2Proof.Machine

/-- One step looks up the entry at the byte exclusive-or the running value (rule R64). -/
theorem crc8Step_eq_getElem (T : CrcTable) (rv x : Byte) : crc8Step T rv x = T[(x ^^^ rv).toNat]'(x ^^^ rv).isLt := rfl

/-- The checksum is the fold of the table look-up, its running value initialised to 0 (rule R63). -/
theorem crc8_eq_foldl_getElem (T : CrcTable) (span : List Byte) :
    crc8 T span = span.foldl (fun rv b => T[(b ^^^ rv).toNat]'(b ^^^ rv).isLt) 0x00 := rfl

@[simp] theorem crc8_nil (T : CrcTable) : crc8 T [] = 0 := rfl

/-- A byte more at the end is a step more from the checksum of the bytes before it (rule R64). -/
theorem crc8_append_singleton (T : CrcTable) (span : List Byte) (x : Byte) :
    crc8 T (span ++ [x]) = crc8Step T (crc8 T span) x :=
  List.foldl_append ..

/-- The worked example of rule R63, with the default table (log entry 1). -/
theorem crc8_defaultCrcTable_example : crc8 defaultCrcTable [0x12, 0x34, 0x56, 0x78, 0x04, 0xFB] = 0xDA := by
  decide

/-- Settles O20: CRC8 delivers `crc8` and nothing else; `crc8` is the statement's fold, and the worked example is `crc8` under the
default table. -/
theorem crc8FoldsTheTable : Obligations.Crc8FoldsTheTable := by
  constructor
  · intro span s
    rw [← crc8_eq_foldl_getElem]
    exact exec_crc8 span s
  · intro s htable
    rw [exec_crc8, htable, crc8_defaultCrcTable_example]
    rfl

/-- Settles O22: the running value the longer span steps from is the checksum CRC8 delivers for the shorter one. -/
theorem crc8OfEmptyAndLongerSpans : Obligations.Crc8OfEmptyAndLongerSpans := by
  intro s span x
  refine ⟨?empty, crc8 s.params.crcTable span, exec_crc8 span s, ?longer⟩
  case empty =>
    rw [exec_crc8, crc8_nil]
    rfl
  case longer =>
    rw [exec_crc8, crc8_append_singleton, crc8Step_eq_getElem]
    rfl

end Sys2Proof.Machine

/-! ### Proofs: the Receive Deduplicator's transitions (rules R73 to R80) -/

namespace Sys2Proof.Machine

/-! #### DEDUP by the distinctness test (rules R73, R74, R76, R78) -/

/-- The same event can only be that of a tracked Message. -/
theorem SameEvent.valid {s : State} {m : Message} {t : Time} (h : SameEvent s m t) : s.ds.valid = true :=
  h.1

/-- On a new event DEDUP makes the new-event transition. -/
theorem exec_dedup_of_not_sameEvent {s : State} {m : Message} {t : Time} (h : ¬ SameEvent s m t) :
    exec (.dedup m t) s = .next (afterNewEvent s m t) := by
  rw [← isSameEvent_iff_SameEvent, Bool.not_eq_true] at h
  rw [exec_dedup, dedupStep_new h]
  rfl

/-- The event of a same-event transition, with the threshold test of rule R77 as numbers. -/
theorem thresholdEvent_eq (s : State) :
    (if reachesThreshold s.params.minRepeats s.ds.count then some (trackedEvent s.ds) else none)
      = if s.ds.count.toNat = s.params.minRepeats.toNat - 1 then some ⟨s.ds.net, s.ds.dev, s.ds.pay⟩ else none := by
  have hlegal := s.params.legal
  have hthreshold : s.ds.count.toNat + 1 = s.params.minRepeats.toNat
      ↔ s.ds.count.toNat = s.params.minRepeats.toNat - 1 := by omega
  simp only [reachesThreshold_iff, hthreshold, trackedEvent]

/-- On the same event DEDUP makes the same-event transition. -/
theorem exec_dedup_of_sameEvent {s : State} {m : Message} {t : Time} (h : SameEvent s m t) :
    exec (.dedup m t) s = .next (afterSameEvent s t) := by
  rw [← isSameEvent_iff_SameEvent] at h
  rw [exec_dedup, dedupStep_same h, thresholdEvent_eq]
  rfl

/-- Settles O39: the condition of the statement is `SameEvent`, and its two states are those the two transitions leave. -/
theorem dedupTransition : Obligations.DedupTransition := by
  intro m t s
  split
  case isTrue hsame => exact exec_dedup_of_sameEvent hsame
  case isFalse hnew => exact exec_dedup_of_not_sameEvent hnew

/-! #### The conceptual states and the emission (rules R77, R80) -/

section phaseOf
variable {timeW countW : Nat} (minRepeats : BitVec countW) (ds : DedupState timeW countW)

theorem phaseOf_eq_empty_iff : phaseOf minRepeats ds = .empty ↔ ds.valid = false := by
  unfold phaseOf
  split
  · split <;> simp [*]
  · simp [*]

theorem phaseOf_eq_belowThreshold_iff :
    phaseOf minRepeats ds = .belowThreshold ↔ ds.valid = true ∧ ds.count.toNat < minRepeats.toNat := by
  unfold phaseOf
  split
  · split <;> simp [*]
  · simp [*]

theorem phaseOf_eq_atOrAboveThreshold_iff :
    phaseOf minRepeats ds = .atOrAboveThreshold ↔ ds.valid = true ∧ minRepeats.toNat ≤ ds.count.toNat := by
  unfold phaseOf
  split
  · split <;> simp_all
  · simp [*]

end phaseOf

@[simp] theorem afterSameEvent_valid (s : State) (t : Time) : (afterSameEvent s t).ds.valid = s.ds.valid := rfl

/-- The count a same-event transition leaves, as a number (rule R81). -/
theorem afterSameEvent_count_toNat (s : State) (t : Time) :
    (afterSameEvent s t).ds.count.toNat = min (s.ds.count.toNat + 1) 65535 :=
  saturatingIncrement_toNat s.ds.count

/-- A same-event transition emits exactly when the old count is `MIN_REPEATS − 1` (rule R77). -/
theorem emitBit_afterSameEvent (s : State) (t : Time) :
    emitBit (afterSameEvent s t).out = decide (s.ds.count.toNat = s.params.minRepeats.toNat - 1) := by
  simp only [emitBit, afterSameEvent]
  split <;> simp [*]

@[simp] theorem emitBit_afterNewEvent (s : State) (m : Message) (t : Time) : emitBit (afterNewEvent s m t).out = false := rfl

/-- A new event is below the threshold: its count is 1, and a legal threshold is at least 2 (rule R86). -/
theorem phaseOf_afterNewEvent (s : State) (m : Message) (t : Time) :
    phaseOf s.params.minRepeats (afterNewEvent s m t).ds = .belowThreshold :=
  (phaseOf_eq_belowThreshold_iff _ _).mpr ⟨rfl, s.params.legal⟩

/-- A same event leaves the slot below the threshold where one more sighting does not make the threshold. -/
theorem phaseOf_afterSameEvent_below {s : State} {m : Message} {t : Time} (h : SameEvent s m t)
    (hcount : s.ds.count.toNat < s.params.minRepeats.toNat - 1) :
    phaseOf s.params.minRepeats (afterSameEvent s t).ds = .belowThreshold := by
  rw [phaseOf_eq_belowThreshold_iff, afterSameEvent_valid, afterSameEvent_count_toNat]
  exact ⟨h.valid, by omega⟩

/-- A same event leaves the slot at or above the threshold where one more sighting makes it or the count had reached it: no
threshold is above the count at which the counter stays. -/
theorem phaseOf_afterSameEvent_atOrAbove {s : State} {m : Message} {t : Time} (h : SameEvent s m t)
    (hcount : s.params.minRepeats.toNat - 1 ≤ s.ds.count.toNat) :
    phaseOf s.params.minRepeats (afterSameEvent s t).ds = .atOrAboveThreshold := by
  have hmax := count_lt s.params.minRepeats
  rw [phaseOf_eq_atOrAboveThreshold_iff, afterSameEvent_valid, afterSameEvent_count_toNat]
  exact ⟨h.valid, by omega⟩

/-! #### Nothing but the reset input empties the slot (rules R15 (b), R80) -/

/-- Either transition of the deduplicator leaves a tracked Message. -/
theorem dedupStep_valid {timeW countW : Nat} (P : Parameters timeW countW) (ds : DedupState timeW countW) (m : Message)
    (t : BitVec timeW) : (dedupStep P ds m t).1.valid = true := by
  cases hsame : isSameEvent P.timeout ds m t with
  | false => rw [dedupStep_new hsame, newEventTransition_valid]
  | true =>
    obtain ⟨hvalid, _⟩ := (isSameEvent_iff _ _ _ _).mp hsame
    rw [dedupStep_same hsame, sameEventTransition_valid, hvalid]

/-- No operation empties the slot: it leaves DedupState alone or makes a transition of the deduplicator. -/
theorem exec_valid {i : Instr} {s t : State} (h : exec i s = .next t) (hvalid : s.ds.valid = true) :
    t.ds.valid = true := by
  rcases exec_cases h with ⟨o, rfl, _⟩ | ⟨m, u, st, rfl, _⟩
  · exact hvalid
  · exact dedupStep_valid ..

/-- A step that leaves the slot empty found it empty or took the reset input. -/
theorem step_to_empty {s t : State} (h : step s = .next t) (hempty : t.ds.valid = false) :
    s.ds.valid = false ∨ s.pending.head? = some .reset := by
  rcases step_cases h with ⟨rest, hpending, _⟩ | ⟨w, rest, i, _, _, hexec⟩
  · exact .inr (by rw [hpending, List.head?_cons])
  · refine .inl (Bool.eq_false_iff.mpr fun hvalid => ?_)
    rw [exec_valid hexec hvalid] at hempty
    contradiction

/-- Settles O41. DEDUP: a new event starts below the threshold; on the same event the old count, below, at or above
`MIN_REPEATS − 1`, gives both the phase and the emission. Every step: `step_to_empty`. -/
theorem phaseTransitions : Obligations.PhaseTransitions := by
  constructor
  · intro m t s
    simp only [phaseOf_eq_empty_iff]
    by_cases hsame : SameEvent s m t
    case neg =>
      exact ⟨_, exec_dedup_of_not_sameEvent hsame, fun _ => hsame,
        fun _ => ⟨phaseOf_afterNewEvent s m t, emitBit_afterNewEvent s m t⟩,
        (absurd · hsame), (absurd · hsame), (absurd · hsame)⟩
    case pos =>
      have hlegal := s.params.legal
      refine ⟨_, exec_dedup_of_sameEvent hsame, by simp [hsame.valid], (absurd hsame ·), fun _ _ hlt => ?below,
        fun _ _ heq => ?crossing, fun _ hphase => ?above⟩ <;> rw [emitBit_afterSameEvent]
      case below => exact ⟨phaseOf_afterSameEvent_below hsame hlt, decide_eq_false hlt.ne⟩
      case crossing => exact ⟨phaseOf_afterSameEvent_atOrAbove hsame heq.ge, decide_eq_true heq⟩
      case above =>
        obtain ⟨_, hge⟩ := (phaseOf_eq_atOrAboveThreshold_iff _ _).mp hphase
        exact ⟨phaseOf_afterSameEvent_atOrAbove hsame (by omega), decide_eq_false (by omega)⟩
  · intro s t hstep
    rw [phaseOf_eq_empty_iff, phaseOf_eq_empty_iff]
    exact step_to_empty hstep

/-! #### The gap (rules R74, R75) -/

/-- A Message with the tracked identity is the same event exactly when its gap is within the window. -/
theorem sameEvent_tracked_iff {s : State} (hvalid : s.ds.valid = true) (t : Time) :
    SameEvent s ⟨s.ds.net, s.ds.dev, s.ds.pay⟩ t ↔ (t - s.ds.last).toNat ≤ s.params.timeout.toNat := by
  simp [SameEvent, hvalid]

/-- The gap of a time `elapsed` units on is `elapsed`, across a wrap or not. -/
theorem gap_toNat_of_elapsed (last : Time) {elapsed : Nat} (h : elapsed < 2 ^ 32) :
    (last + BitVec.ofNat 32 elapsed - last).toNat = elapsed := by
  rw [BitVec.add_comm, BitVec.add_sub_cancel, BitVec.toNat_ofNat, Nat.mod_eq_of_lt h]

/-- The gap of a time `back` units earlier is `2^32 − back`. -/
theorem gap_toNat_of_back (last : Time) {back : Nat} (hpos : 0 < back) (h : back < 2 ^ 32) :
    (last - BitVec.ofNat 32 back - last).toNat = 2 ^ 32 - back := by
  rw [sub_sub_cancel_left, BitVec.toNat_neg, BitVec.toNat_ofNat, Nat.mod_eq_of_lt h,
    Nat.mod_eq_of_lt (Nat.sub_lt (Nat.two_pow_pos _) hpos)]

/-- DEDUP of the tracked Message with a known gap: the same event up to the window's far end, a new event past it. -/
theorem exec_dedup_tracked_of_gap {s : State} (hvalid : s.ds.valid = true) {t : Time} {gap : Nat}
    (hgap : (t - s.ds.last).toNat = gap) :
    (gap ≤ s.params.timeout.toNat → exec (.dedup ⟨s.ds.net, s.ds.dev, s.ds.pay⟩ t) s = .next (afterSameEvent s t))
    ∧ (s.params.timeout.toNat < gap →
        exec (.dedup ⟨s.ds.net, s.ds.dev, s.ds.pay⟩ t) s = .next (afterNewEvent s ⟨s.ds.net, s.ds.dev, s.ds.pay⟩ t)) := by
  have hsame := sameEvent_tracked_iff hvalid t
  rw [hgap] at hsame
  exact ⟨fun hle => exec_dedup_of_sameEvent (hsame.mpr hle),
    fun hlt => exec_dedup_of_not_sameEvent (hsame.not.mpr (Nat.not_le.mpr hlt))⟩

/-- Settles O42: the gap is `elapsed` for a later time and `2^32 − back` for an earlier one, and decides the transition. -/
theorem gapIsModularAndWindowClosed : Obligations.GapIsModularAndWindowClosed := by
  rintro m s hvalid rfl
  constructor
  · intro elapsed helapsed
    exact exec_dedup_tracked_of_gap hvalid (gap_toNat_of_elapsed s.ds.last helapsed)
  · intro back hpos hback
    exact (exec_dedup_tracked_of_gap hvalid (gap_toNat_of_back s.ds.last hpos hback)).symm

end Sys2Proof.Machine

/-! ### Proofs: the receive path (rules R87, R88) -/

namespace Sys2Proof.Machine

/-- RECV of a frame that decodes to a Message makes DEDUP's transition on that Message and delivers the status `OK` with its
event. -/
theorem exec_recv_of_exec_dedup {f : Frame} {t : Time} {s u : State} {m : Message}
    (hdec : decodeFrame s.params.crcTable f = .message m) (hdedup : exec (.dedup m t) s = .next u) :
    exec (.recv f t) s = .next { u with out := { u.out with status := some .ok } } := by
  rw [exec_dedup] at hdedup
  cases hdedup
  exact exec_recv_message hdec

/-- Settles O50: a frame that fails a check raises the error of the first such check; a valid one makes DEDUP's transition, by the
distinctness test on its Message. -/
theorem recvDecodesThenDeduplicates : Obligations.RecvDecodesThenDeduplicates := by
  intro b t s
  simp only [ne_eq, ← complementOk_iff, ← checksumOk_iff]
  rcases decodeFrame_cases s.params.crcTable b with ⟨hcomp, hdec⟩ | ⟨hcomp, hsum, hdec⟩ | ⟨hvalid, hdec⟩
  · rw [exec_recv_error hdec, if_pos (by simp [hcomp])]
    rfl
  · rw [exec_recv_error hdec, if_neg (by simp [hcomp]), if_pos (by simp [hsum])]
    rfl
  · obtain ⟨hcomp, hsum⟩ := (validFrame_iff s.params.crcTable b).mp hvalid
    rw [if_neg (by simp [hcomp]), if_neg (by simp [hsum])]
    split
    case isTrue hsame => exact exec_recv_of_exec_dedup hdec (exec_dedup_of_sameEvent hsame)
    case isFalse hnew => exact exec_recv_of_exec_dedup hdec (exec_dedup_of_not_sameEvent hnew)

end Sys2Proof.Machine

/-! ### Proofs: frame errors (rules R97, R100, R102) -/

namespace Sys2Proof.Machine

/-- A frame that is not valid decodes to the error of the first check that fails (rule R97). -/
theorem decodeFrame_error_status_of_not_valid {T : CrcTable} {f : Frame} (hbad : ¬ ValidFrame T f) :
    ∃ e, decodeFrame T f = .error e
      ∧ statusOfError e = if f[4] ^^^ f[5] = 0xFF then .checksumMismatch else .payloadMismatch := by
  simp only [← complementOk_iff]
  rcases decodeFrame_cases T f with ⟨hcomp, hdec⟩ | ⟨hcomp, _, hdec⟩ | ⟨hvalid, _⟩
  · exact ⟨_, hdec, by rw [if_neg (by simp [hcomp]), statusOfError]⟩
  · exact ⟨_, hdec, by rw [if_pos hcomp, statusOfError]⟩
  · exact absurd hvalid hbad

/-- DECODE and RECV of a frame that decodes to an error raise it (rules R97, R100). -/
theorem exec_raises_of_decodeFrame_error {f : Frame} {u : Time} {s : State} {i : Instr} {e : FrameError}
    (hi : i = .decode f ∨ i = .recv f u) (hdec : decodeFrame s.params.crcTable f = .error e) :
    exec i s = .next (s.raiseFrameError e) := by
  rcases hi with rfl | rfl
  · exact exec_decode_error hdec
  · exact exec_recv_error hdec

/-- No operation reads the outputs of the step before it: it delivers its own in their place (rule R20). -/
theorem exec_deliver (j : Instr) (s : State) (o : Outputs) : exec j (s.deliver o) = exec j s := by
  cases j with
  | crc8 span => exact exec_crc8 span s
  | encode n d p => exact exec_encode n d p s
  | decode f => exact (exec_decode f (s.deliver o)).trans (exec_decode f s).symm
  | dedup m t => exact exec_dedup m t s
  | recv f t =>
    cases hdec : decodeFrame s.params.crcTable f with
    | message m => exact (exec_recv_message (s := s.deliver o) hdec).trans (exec_recv_message hdec).symm
    | error e => exact (exec_recv_error (s := s.deliver o) hdec).trans (exec_recv_error hdec).symm
  | frame f => exact exec_frame f s

/-- Settles O37: both operations raise the error of decoding the frame, and raising it writes the outputs alone. -/
theorem frameErrorChangesOnlyStatus : Obligations.FrameErrorChangesOnlyStatus := by
  intro f u s i hi hbad
  obtain ⟨e, hdec, hstatus⟩ := decodeFrame_error_status_of_not_valid hbad
  rw [exec_raises_of_decodeFrame_error hi hdec, ← hstatus]
  rfl

/-- Settles O38: the failed operation leaves its status in the outputs and nothing else (O37), and the next operation does not read
them. -/
theorem nextOperationUnaffectedByFrameError : Obligations.NextOperationUnaffectedByFrameError := by
  intro f u s t i j hi hbad hexec
  rw [frameErrorChangesOnlyStatus f u s i hi hbad] at hexec
  cases hexec
  exact exec_deliver j s _

end Sys2Proof.Machine

/-! ### Proofs: words and their decoder (rules R30, R45, R46, R49) -/

namespace Sys2Proof.Machine

/-! #### The instruction of an encoded word -/

/-- The first 32-bit value of a byte sequence with room for one. -/
theorem exists_be32_append {bs : List Byte} (h : 4 ≤ bs.length) :
    ∃ v rest, bs = be32 v ++ rest ∧ rest.length = bs.length - 4 := by
  match bs, h with
  | b0 :: b1 :: b2 :: b3 :: rest, _ => exact ⟨unbe32 b0 b1 b2 b3, rest, by rw [be32_unbe32]; rfl, rfl⟩

/-- The first frame of a byte sequence with room for one. -/
theorem exists_frameBytes_append {bs : List Byte} (h : 11 ≤ bs.length) :
    ∃ f rest, bs = frameBytes f ++ rest ∧ rest.length = bs.length - 11 := by
  have hlen : (bs.take 11).length = 11 := List.length_take_of_le h
  obtain ⟨f, hf⟩ := Option.isSome_iff_exists.mp ((frameOfBytes_isSome _).trans (decide_eq_true hlen))
  exact ⟨f, bs.drop 11, by rw [frameOfBytes_eq_some.mp hf, List.take_append_drop], List.length_drop⟩

/-- RECV's operand bytes: a frame, then the time. -/
theorem decodeRecv_frameBytes_append_be32 (f : Frame) (t : Time) :
    decodeRecv (frameBytes f ++ be32 t) = .ok (.recv f t) := by
  have hframe : frameOfBytes ((frameBytes f ++ be32 t).take 11) = some f := by
    rw [List.take_left' (frameBytes_length f), frameOfBytes_frameBytes]
  have htime : (frameBytes f ++ be32 t).drop 11 = be32 t := List.drop_left' (frameBytes_length f)
  rw [decodeRecv, hframe, htime]
  simp only [be32, unbe32_extract]

/-- Decoding undoes encoding, operation by operation: the identifiers and the time are assembled from the bytes they were split
into, and a frame is the frame of its bytes. -/
theorem decode_encode (i : Instr) : decode (encode i) = .ok i := by
  cases i with
  | crc8 span => rfl
  | encode n d p =>
    change Except.ok (Instr.encode (unbe32 _ _ _ _) (unbe32 _ _ _ _) p) = _
    rw [unbe32_extract, unbe32_extract]
  | decode f =>
    change decodeDecode (frameBytes f) = _
    simp only [decodeDecode, frameOfBytes_frameBytes]
  | dedup m t =>
    change Except.ok (Instr.dedup ⟨unbe32 _ _ _ _, unbe32 _ _ _ _, _⟩ (unbe32 _ _ _ _)) = _
    rw [unbe32_extract, unbe32_extract, unbe32_extract]
  | recv f t => exact decodeRecv_frameBytes_append_be32 f t
  | frame f =>
    change decodeWire (frameBytes f) = _
    simp only [decodeWire, frameOfBytes_frameBytes]

/-- Settles O1: every instruction, since each is well formed. -/
theorem decodeAfterEncodeGivesInstruction : Obligations.DecodeAfterEncodeGivesInstruction :=
  fun i _ => decode_encode i

/-! #### The word of a decoded instruction -/

/-- A code selects an operation exactly when it is that operation's code (rules R45, R49). -/
theorem opcodeOfBits_eq_some_iff (op : BitVec 3) (o : Opcode) : opcodeOfBits op = some o ↔ op = opcodeBits o := by
  revert op
  cases o <;> decide

theorem encode_of_decodeEncode {bs : List Byte} {i : Instr} (h : decodeEncode bs = .ok i) :
    encode i = .operation (opcodeBits .encode) bs := by
  unfold decodeEncode at h
  split at h <;> cases h
  rw [encode, be32_unbe32, be32_unbe32]
  rfl

theorem encode_of_decodeDecode {bs : List Byte} {i : Instr} (h : decodeDecode bs = .ok i) :
    encode i = .operation (opcodeBits .decode) bs := by
  unfold decodeDecode at h
  split at h <;> cases h
  rw [encode, frameOfBytes_eq_some.mp ‹_›]

theorem encode_of_decodeDedup {bs : List Byte} {i : Instr} (h : decodeDedup bs = .ok i) :
    encode i = .operation (opcodeBits .dedup) bs := by
  unfold decodeDedup at h
  split at h <;> cases h
  rw [encode, messageBytes, be32_unbe32, be32_unbe32, be32_unbe32]
  rfl

theorem encode_of_decodeRecv {bs : List Byte} {i : Instr} (h : decodeRecv bs = .ok i) :
    encode i = .operation (opcodeBits .recv) bs := by
  unfold decodeRecv at h
  split at h <;> cases h
  rename_i hframe htime
  rw [encode, be32_unbe32, frameOfBytes_eq_some.mp hframe, ← htime, List.take_append_drop]

theorem encode_of_decodeWire {bs : List Byte} {i : Instr} (h : decodeWire bs = .ok i) : encode i = .wire bs := by
  unfold decodeWire at h
  split at h <;> cases h
  rw [encode, frameOfBytes_eq_some.mp ‹_›]

/-- Encoding undoes decoding: each operation's operand bytes are all read, and the code is the operation's own. -/
theorem encode_of_decode {w : HostWord} {i : Instr} (h : decode w = .ok i) : encode i = w := by
  cases w with
  | wire bs => exact encode_of_decodeWire h
  | operation op bs =>
    cases hop : opcodeOfBits op with
    | none => simp [decode, hop] at h
    | some o =>
      obtain rfl := (opcodeOfBits_eq_some_iff _ _).mp hop
      simp only [decode, hop] at h
      cases o with
      | crc8 => cases h; rfl
      | encode => exact encode_of_decodeEncode h
      | decode => exact encode_of_decodeDecode h
      | dedup => exact encode_of_decodeDedup h
      | recv => exact encode_of_decodeRecv h

/-- The encoder writes words that pass the boundary's check. -/
theorem wellFormed_encode (i : Instr) : (encode i).wellFormed = true := by
  cases i with
  | crc8 span => exact Laws.EncodedWordWellFormed.crc8 span
  | encode n d p => exact Laws.EncodedWordWellFormed.encode n d p
  | decode f => exact Laws.EncodedWordWellFormed.decode f
  | dedup m t => exact Laws.EncodedWordWellFormed.dedup m t
  | recv f t => exact Laws.EncodedWordWellFormed.recv f t
  | frame f => exact Laws.EncodedWordWellFormed.frame f

/-- Settles O2: the accepted word is the encoder's word, and those are well formed. -/
theorem encodeAfterDecodeGivesWord : Obligations.EncodeAfterDecodeGivesWord := by
  intro w i h
  have hword := encode_of_decode h
  exact ⟨hword ▸ wellFormed_encode i, hword⟩

/-- Settles O3: five fixed words, each decoded by evaluation. -/
theorem serialisedProgramLinesDecode : Obligations.SerialisedProgramLinesDecode :=
  ⟨rfl, rfl, rfl, rfl, rfl⟩

/-! #### Which inputs have a step (rules R6, R45, R49, R103) -/

theorem step_reset {s : State} {rest : List HostInput} (h : s.pending = .reset :: rest) :
    step s = .next (State.applyReset { s with pending := rest }) := by
  simp only [step, h]

/-- A word that stands for an instruction runs it on the state without that word. -/
theorem step_word {s : State} {w : HostWord} {rest : List HostInput} {i : Instr} (h : s.pending = .word w :: rest)
    (hdec : decode w = .ok i) : step s = exec i { s with pending := rest } := by
  simp only [step, h, hdec]

/-- Settles O5: `step_word`, whatever the instruction. -/
theorem stepRunsDecodedInstruction : Obligations.StepRunsDecodedInstruction :=
  fun _ _ _ _ hpending hdec _ => step_word hpending hdec

/-- The three codes that select no operation (rule R49). -/
theorem opcodeOfBits_reserved {op : BitVec 3} (h : op = 0b000 ∨ op = 0b110 ∨ op = 0b111) : opcodeOfBits op = none := by
  rcases h with rfl | rfl | rfl <;> rfl

/-- Settles O4: the decoder rejects the code before it reads an operand byte, and the step refuses what the decoder rejects. -/
theorem reservedCodesHaveNoStep : Obligations.ReservedCodesHaveNoStep := by
  intro op operands rest s hop hpending
  simp only [step, hpending, decode, opcodeOfBits_reserved hop, refusalOfDecodeError]

/-- Exactly the wire frame standing alone has no next state (log entry 8). -/
theorem exec_next_iff (i : Instr) (s : State) : (∃ t, exec i s = .next t) ↔ ∀ f, i ≠ .frame f := by
  cases i with
  | crc8 span => exact ⟨fun _ => nofun, fun _ => ⟨_, exec_crc8 span s⟩⟩
  | encode n d p => exact ⟨fun _ => nofun, fun _ => ⟨_, exec_encode n d p s⟩⟩
  | decode f => exact ⟨fun _ => nofun, fun _ => ⟨_, exec_decode f s⟩⟩
  | dedup m t => exact ⟨fun _ => nofun, fun _ => ⟨_, exec_dedup m t s⟩⟩
  | recv f t =>
    obtain ⟨u, hexec, _⟩ := exec_recv_status f t s
    exact ⟨fun _ => nofun, fun _ => ⟨u, hexec⟩⟩
  | frame f => exact ⟨nofun, fun h => absurd rfl (h f)⟩

/-- The words of the five operations are the encoder's words of everything but the wire frame. -/
theorem isOperationWord_iff_encode (w : HostWord) : IsOperationWord w ↔ ∃ i, (∀ f, i ≠ .frame f) ∧ encode i = w := by
  constructor
  · intro h
    cases w with
    | wire bs => exact h.elim
    | operation op bs =>
      rcases h with rfl | ⟨rfl, hlen⟩ | ⟨rfl, hlen⟩ | ⟨rfl, hlen⟩ | ⟨rfl, hlen⟩
      · exact ⟨.crc8 bs, nofun, rfl⟩
      · obtain ⟨n, bs, rfl, hn⟩ := exists_be32_append (bs := bs) (by omega)
        obtain ⟨d, bs, rfl, hd⟩ := exists_be32_append (bs := bs) (by omega)
        obtain ⟨p, rfl⟩ := List.length_eq_one_iff.mp (show bs.length = 1 by omega)
        exact ⟨.encode n d p, nofun, rfl⟩
      · obtain ⟨f, bs, rfl, hf⟩ := exists_frameBytes_append (bs := bs) (by omega)
        obtain rfl := List.length_eq_zero_iff.mp (show bs.length = 0 by omega)
        exact ⟨.decode f, nofun, by rw [List.append_nil]; rfl⟩
      · obtain ⟨n, bs, rfl, hn⟩ := exists_be32_append (bs := bs) (by omega)
        obtain ⟨d, bs, rfl, hd⟩ := exists_be32_append (bs := bs) (by omega)
        obtain ⟨p, bs, rfl⟩ := List.exists_cons_of_length_pos (show 0 < bs.length by omega)
        rw [List.length_cons] at hd
        obtain ⟨t, bs, rfl, ht⟩ := exists_be32_append (bs := bs) (by omega)
        obtain rfl := List.length_eq_zero_iff.mp (show bs.length = 0 by omega)
        exact ⟨.dedup ⟨n, d, p⟩ t, nofun, rfl⟩
      · obtain ⟨f, bs, rfl, hf⟩ := exists_frameBytes_append (bs := bs) (by omega)
        obtain ⟨t, bs, rfl, ht⟩ := exists_be32_append (bs := bs) (by omega)
        obtain rfl := List.length_eq_zero_iff.mp (show bs.length = 0 by omega)
        exact ⟨.recv f t, nofun, by rw [List.append_nil]; rfl⟩
  · rintro ⟨i, hframe, rfl⟩
    cases i with
    | crc8 span => exact .inl rfl
    | encode n d p => exact .inr (.inl ⟨rfl, rfl⟩)
    | decode f => exact .inr (.inr (.inl ⟨rfl, frameBytes_length f⟩))
    | dedup m t => exact .inr (.inr (.inr (.inl ⟨rfl, rfl⟩)))
    | recv f t => exact .inr (.inr (.inr (.inr ⟨rfl, by simp⟩)))
    | frame f => exact absurd rfl (hframe f)

/-- Settles O6: a step is the reset input or an instruction with a next state, and those are the encoder's words but for the wire
frame's. A fault has no form. -/
theorem stepExistsExactlyForOperationsAndReset : Obligations.StepExistsExactlyForOperationsAndReset := by
  intro s
  refine ⟨⟨?has_step, ?steps⟩, nofun⟩
  case has_step =>
    rintro ⟨t, hstep⟩
    rcases step_cases hstep with ⟨rest, hpending, _⟩ | ⟨w, rest, i, hpending, hdec, hexec⟩
    · exact .inl ⟨rest, hpending⟩
    · exact .inr ⟨w, rest, hpending,
        (isOperationWord_iff_encode w).mpr ⟨i, (exec_next_iff i _).mp ⟨t, hexec⟩, encode_of_decode hdec⟩⟩
  case steps =>
    rintro (⟨rest, hpending⟩ | ⟨w, rest, hpending, hword⟩)
    · exact ⟨_, step_reset hpending⟩
    · obtain ⟨i, hframe, rfl⟩ := (isOperationWord_iff_encode w).mp hword
      rw [step_word hpending (decode_encode i)]
      exact (exec_next_iff i _).mpr hframe

end Sys2Proof.Machine

/-! ### Proofs: the checksum table and the checksum's algebra (rules R67 to R72) -/

namespace Sys2Proof.Machine

/-! #### Every table -/

/-- Settles O21: the checksum is a left fold. -/
theorem checksumOfConcatenation : Obligations.ChecksumOfConcatenation := by
  intro T a b
  exact List.foldl_append

/-- A running value met by a byte equal to it looks up entry 0. -/
theorem crc8Step_self (T : CrcTable) (rv : Byte) : crc8Step T rv rv = tableEntry T 0 := by
  rw [crc8Step, BitVec.xor_self]
  rfl

section zeroEntry
variable {T : CrcTable}

/-- With `T[0] = 0` a leading zero leaves the running value at its initial 0 (rule R71). -/
theorem crc8_zero_cons (h : tableEntry T 0 = 0) (span : List Byte) : crc8 T (0 :: span) = crc8 T span := by
  have hstep : crc8Step T crcInit 0 = crcInit := (crc8Step_self T 0).trans h
  rw [crc8, foldl_crc8Step_cons, hstep, crc8]

/-- With `T[0] = 0` an all-zero span has the checksum 0 (rule R71). -/
theorem crc8_replicate_zero (h : tableEntry T 0 = 0) (n : Nat) : crc8 T (List.replicate n 0) = 0 := by
  induction n with
  | zero => exact crc8_nil T
  | succ n ih => rw [List.replicate_succ, crc8_zero_cons h, ih]

/-- With `T[0] = 0` a span followed by its own checksum leaves the residue 0 (rule R71). -/
theorem crc8_append_crc8 (h : tableEntry T 0 = 0) (span : List Byte) : crc8 T (span ++ [crc8 T span]) = 0 := by
  rw [crc8_append_singleton, crc8Step_self, h]

end zeroEntry

/-! #### The polynomial loop (rule R68) -/

/-- One iteration with the bit shifted out as a mask on 0x8C. -/
theorem polyIteration_eq_xor (c : Byte) : polyIteration c = (c >>> 1) ^^^ (if c.getLsbD 0 then 0x8C else 0) := by
  unfold polyIteration
  split <;> simp

/-- One iteration is linear over exclusive OR: the bit shifted out of the sum is the sum of those shifted out. -/
theorem polyIteration_xor (a b : Byte) : polyIteration (a ^^^ b) = polyIteration a ^^^ polyIteration b := by
  have hmask : ∀ p q : Bool, (if p ^^ q then 0x8C else 0 : Byte) = (if p then 0x8C else 0) ^^^ (if q then 0x8C else 0) := by
    decide
  rw [polyIteration_eq_xor, polyIteration_eq_xor, polyIteration_eq_xor, BitVec.getLsbD_xor, hmask,
    BitVec.ushiftRight_xor_distrib]
  ac_rfl

/-- One iteration kills no byte but 0: the bit shifted out comes back as the highest bit of 0x8C, which no shifted byte has. -/
theorem polyIteration_eq_zero {c : Byte} (h : polyIteration c = 0) : c = 0 := by
  revert c
  decide

/-- Eight iterations, as the loop of rule R68 writes them. -/
theorem polyEntry_eq_iterate (i : Byte) : polyEntry i = polyIteration^[8] i := rfl

theorem polyIteration_iterate_xor (n : Nat) (a b : Byte) :
    polyIteration^[n] (a ^^^ b) = polyIteration^[n] a ^^^ polyIteration^[n] b := by
  induction n generalizing a b with
  | zero => rfl
  | succ n ih => rw [Function.iterate_succ_apply, Function.iterate_succ_apply, Function.iterate_succ_apply,
      polyIteration_xor, ih]

theorem polyIteration_injective : Function.Injective polyIteration := by
  intro a b h
  have hsum : polyIteration (a ^^^ b) = 0 := by rw [polyIteration_xor, h, BitVec.xor_self]; rfl
  exact BitVec.xor_eq_zero_iff.mp (polyIteration_eq_zero hsum)

/-! #### The default table (rules R67, R68, R70, R72; log entry 1) -/

/-- The table of rule R67 is the loop of rule R68, entry for entry. -/
theorem tableEntry_defaultCrcTable (i : Byte) : tableEntry defaultCrcTable i = polyEntry i := by
  revert i
  decide

theorem tableEntry_defaultCrcTable_eq_iterate : tableEntry defaultCrcTable = polyIteration^[8] :=
  funext tableEntry_defaultCrcTable

/-- Settles O23: the two engines differ in the entry alone, and in the order of the exclusive OR's two arguments. -/
theorem defaultTableIsPolynomialEngine : Obligations.DefaultTableIsPolynomialEngine := by
  have hstep : crc8Step defaultCrcTable = fun rv b => polyIteration^[8] (rv ^^^ b) := by
    funext rv b
    rw [crc8Step, tableEntry_defaultCrcTable_eq_iterate, BitVec.xor_comm]
  refine ⟨tableEntry_defaultCrcTable, fun span => ?_⟩
  rw [crc8, hstep]
  rfl

theorem tableEntry_default_injective : Function.Injective (tableEntry defaultCrcTable) := by
  rw [tableEntry_defaultCrcTable_eq_iterate]
  exact polyIteration_injective.iterate 8

theorem tableEntry_default_xor (a b : Byte) :
    tableEntry defaultCrcTable (a ^^^ b) = tableEntry defaultCrcTable a ^^^ tableEntry defaultCrcTable b := by
  rw [tableEntry_defaultCrcTable_eq_iterate]
  exact polyIteration_iterate_xor 8 a b

theorem tableEntry_default_zero : tableEntry defaultCrcTable 0 = 0 := by
  decide

/-- The only entry that is 0 stands at index 0. -/
theorem tableEntry_default_eq_zero_iff {i : Byte} : tableEntry defaultCrcTable i = 0 ↔ i = 0 :=
  tableEntry_default_injective.eq_iff' tableEntry_default_zero

/-- One step is injective in the byte, from every running value. -/
theorem crc8Step_default_injective_byte (rv : Byte) : Function.Injective fun b => crc8Step defaultCrcTable rv b :=
  fun _ _ h => (BitVec.xor_left_inj _).mp (tableEntry_default_injective h)

/-- One step is injective in the running value, for every byte. -/
theorem crc8Step_default_injective (b : Byte) : Function.Injective fun rv => crc8Step defaultCrcTable rv b :=
  fun _ _ h => (BitVec.xor_right_inj _).mp (tableEntry_default_injective h)

/-- The fold over any span is injective in the running value. -/
theorem foldl_crc8Step_default_injective (span : List Byte) :
    Function.Injective fun rv => span.foldl (crc8Step defaultCrcTable) rv := by
  induction span with
  | nil => exact Function.injective_id
  | cons x span ih => exact ih.comp (crc8Step_default_injective x)

/-- The fold is linear over exclusive OR, in the running value and the span together. -/
theorem foldl_crc8Step_default_xor {x y : List Byte} (h : x.length = y.length) (a b : Byte) :
    (List.zipWith (· ^^^ ·) x y).foldl (crc8Step defaultCrcTable) (a ^^^ b)
      = x.foldl (crc8Step defaultCrcTable) a ^^^ y.foldl (crc8Step defaultCrcTable) b := by
  induction x generalizing y a b with
  | nil =>
    obtain rfl := List.length_eq_zero_iff.mp h.symm
    rfl
  | cons p x ih =>
    obtain ⟨q, y, rfl⟩ := List.exists_cons_of_length_eq_add_one h.symm
    have hstep : crc8Step defaultCrcTable (a ^^^ b) (p ^^^ q)
        = crc8Step defaultCrcTable a p ^^^ crc8Step defaultCrcTable b q := by
      rw [crc8Step, crc8Step, crc8Step, ← tableEntry_default_xor]
      congr 1
      ac_rfl
    rw [List.zipWith_cons_cons, foldl_crc8Step_cons, hstep, ih (Nat.succ.inj h)]
    rfl

/-- Settles O24: the permutations are injections of a finite type, the span's linearity is the fold's from 0 = 0 ^ 0, and the eight
entries at the powers of 2 are read off the table. -/
theorem defaultTableIsLinearPermutation : Obligations.DefaultTableIsLinearPermutation :=
  ⟨Finite.injective_iff_bijective.mp tableEntry_default_injective,
    fun b => Finite.injective_iff_bijective.mp (crc8Step_default_injective b),
    fun rv => Finite.injective_iff_bijective.mp (crc8Step_default_injective_byte rv),
    tableEntry_default_zero, tableEntry_default_xor,
    fun _ _ h => foldl_crc8Step_default_xor h crcInit crcInit, by decide⟩

/-- Settles O25: `T[0] = 0` gives the four clauses for every table; for the default table a residue of 0 means that the last byte
and the running value met at the only entry that is 0. -/
theorem zeroEntryMakesChecksumResidueZero : Obligations.ZeroEntryMakesChecksumResidueZero := by
  constructor
  · intro T h
    refine ⟨crc8_zero_cons h, crc8_replicate_zero h, crc8_append_crc8 h, fun f ⟨_, hsum⟩ => ?_⟩
    rw [← hsum]
    exact crc8_append_crc8 h [f[0], f[1], f[2], f[3], f[4], f[5]]
  · intro f
    have hlast : crc8 defaultCrcTable [f[0], f[1], f[2], f[3], f[4], f[5], f[6]]
        = crc8Step defaultCrcTable (crc8 defaultCrcTable [f[0], f[1], f[2], f[3], f[4], f[5]]) f[6] := rfl
    rw [hlast, crc8Step, tableEntry_default_eq_zero_iff]
    exact BitVec.xor_eq_zero_iff.trans eq_comm

/-- The check value of rule R72: the ASCII bytes of "123456789". -/
theorem crc8_defaultCrcTable_checkValue :
    crc8 defaultCrcTable [0x31, 0x32, 0x33, 0x34, 0x35, 0x36, 0x37, 0x38, 0x39] = 0xA1 := by
  decide

/-- Settles O26: CRC8 delivers `crc8` under the default table. -/
theorem checkValueOfDefaultTable : Obligations.CheckValueOfDefaultTable := by
  intro s htable
  rw [exec_crc8, htable, crc8_defaultCrcTable_checkValue]
  rfl

end Sys2Proof.Machine

/-! ### Proofs: the frame codec's two directions (rules R41, R58 to R62) -/

namespace Sys2Proof.Machine

/-! #### Valid frames are the encoder's frames (rules R58, R59) -/

/-- A frame ENCODE builds is valid under the table it was built with. -/
theorem validFrame_buildFrame (T : CrcTable) (n d : Id32) (p : Byte) : ValidFrame T (buildFrame T n d p) := by
  refine ⟨?_, rfl⟩
  change p ^^^ (p ^^^ 0xFF) = 0xFF
  rw [← BitVec.xor_assoc, BitVec.xor_self, BitVec.zero_xor]

/-- Decoding a frame ENCODE builds gives the Message it was built from. -/
theorem decodeFrame_buildFrame (T : CrcTable) (n d : Id32) (p : Byte) :
    decodeFrame T (buildFrame T n d p) = .message ⟨n, d, p⟩ := by
  rw [decodeFrame_of_valid (validFrame_buildFrame T n d p), messageOfFrame_buildFrame]

/-- Decoding gives a Message only for a valid frame, and then the frame's own. -/
theorem decodeFrame_eq_message_iff {T : CrcTable} {f : Frame} {m : Message} :
    decodeFrame T f = .message m ↔ ValidFrame T f ∧ messageOfFrame f = m := by
  constructor
  · intro h
    by_cases hvalid : ValidFrame T f
    · rw [decodeFrame_of_valid hvalid] at h
      cases h
      exact ⟨hvalid, rfl⟩
    · obtain ⟨e, he⟩ := decodeFrame_of_not_valid hvalid
      rw [he] at h
      cases h
  · rintro ⟨hvalid, rfl⟩
    exact decodeFrame_of_valid hvalid

/-- The complement byte of a valid pair is the payload's complement. -/
theorem eq_xor_of_xor_eq {p q c : Byte} (h : p ^^^ q = c) : q = p ^^^ c := by
  rw [← h, ← BitVec.xor_assoc, BitVec.xor_self, BitVec.zero_xor]

/-- Encoding a valid frame's Message gives the frame back: its identifiers' bytes are the frame's, and both checks name the two
bytes the Message does not hold. -/
theorem buildFrame_messageOfFrame {T : CrcTable} {f : Frame} (h : ValidFrame T f) :
    buildFrame T (messageOfFrame f).networkId (messageOfFrame f).deviceId (messageOfFrame f).payload = f := by
  obtain ⟨hcomp, hsum⟩ := h
  obtain ⟨hn3, hn2, hn1, hn0⟩ := extract_unbe32 f[0] f[1] f[2] f[3]
  obtain ⟨hd3, hd2, hd1, hd0⟩ := extract_unbe32 f[7] f[8] f[9] f[10]
  have hpair := eq_xor_of_xor_eq hcomp
  simp only [buildFrame, messageOfFrame, hn3, hn2, hn1, hn0, hd3, hd2, hd1, hd0, ← hpair, hsum]
  refine frame_ext fun k => ?_
  fin_cases k <;> rfl

/-- Settles O30: the frame is the one ENCODE builds. -/
theorem codecRoundTrip : Obligations.CodecRoundTrip := by
  intro n d p s
  exact ⟨_, exec_encode n d p s, exec_decode_message (decodeFrame_buildFrame _ n d p)⟩

/-- The frame ENCODE builds of a Message. -/
def frameOfMessage (T : CrcTable) (m : Message) : Frame :=
  buildFrame T m.networkId m.deviceId m.payload

/-- `frameOfMessage` and `messageOfFrame` undo one another between Messages and valid frames. -/
theorem frameOfMessage_bijOn (T : CrcTable) : Set.BijOn (frameOfMessage T) Set.univ { f | ValidFrame T f } :=
  Set.InvOn.bijOn (f' := messageOfFrame)
    ⟨fun m _ => messageOfFrame_buildFrame T m.networkId m.deviceId m.payload, fun _ h => buildFrame_messageOfFrame h⟩
    (fun m _ => validFrame_buildFrame T m.networkId m.deviceId m.payload) (fun _ _ => trivial)

/-- DECODE delivers a Message exactly for a valid frame, and then the frame's own. -/
theorem exec_decode_delivers {f : Frame} {m : Message} {s t : State} (hexec : exec (.decode f) s = .next t)
    (hm : t.out.message = some m) : ValidFrame s.params.crcTable f ∧ messageOfFrame f = m := by
  rw [exec_decode] at hexec
  cases hexec
  rw [← decodeFrame_eq_message_iff]
  cases hdec : decodeFrame s.params.crcTable f with
  | message m' => simpa [hdec, DecodeResult.deliveredMessage] using hm
  | error e => simp [hdec, DecodeResult.deliveredMessage] at hm

/-- Settles O31: DECODE delivers a Message for a valid frame alone, and `buildFrame` and `messageOfFrame` undo one another there. -/
theorem validFramesAreExactlyEncodings : Obligations.ValidFramesAreExactlyEncodings := by
  refine ⟨fun b m s t hexec hm => ?_, frameOfMessage_bijOn⟩
  obtain ⟨hvalid, rfl⟩ := exec_decode_delivers hexec hm
  rw [exec_encode, buildFrame_messageOfFrame hvalid]
  rfl

/-! #### The bytes that determine a frame (rule R41) -/

/-- The Message of a frame is read from offsets 0 to 4 and 7 to 10. -/
theorem messageOfFrame_congr {f g : Frame} (h : ∀ k : Fin 11, k ≠ 5 → k ≠ 6 → f[k] = g[k]) :
    messageOfFrame f = messageOfFrame g := by
  have hbyte : ∀ j (hj : j < 11), j ≠ 5 → j ≠ 6 → f[j] = g[j] := fun j hj h5 h6 =>
    h ⟨j, hj⟩ (fun e => h5 (congrArg Fin.val e)) (fun e => h6 (congrArg Fin.val e))
  simp (disch := decide) only [messageOfFrame, hbyte]

/-- Settles O32: equal bytes outside the two check bytes mean equal Messages, which determine the frame. -/
theorem framesDifferOutsideCheckBytes : Obligations.FramesDifferOutsideCheckBytes := by
  intro T
  constructor
  · intro m m' hne
    by_contra hsame
    push Not at hsame
    have hmessages := messageOfFrame_congr hsame
    rw [messageOfFrame_buildFrame, messageOfFrame_buildFrame] at hmessages
    exact hne hmessages
  · intro f g hf hg hsame
    rw [← buildFrame_messageOfFrame hf, messageOfFrame_congr hsame, buildFrame_messageOfFrame hg]

/-! #### A changed byte (rules R60 to R62) -/

/-- The bytes of a frame changed at one offset: the new byte there, the frame's elsewhere. -/
theorem frameWith_getElem (f : Frame) (k : Fin 11) (b : Byte) (j : Nat) (hj : j < 11) :
    (frameWith f k b)[j] = if k.val = j then b else f[j] :=
  Vector.getElem_set ..

/-- The span the checksum covers changes with the frame, at the same offset. -/
theorem checksumSpan_frameWith (f : Frame) {k : Fin 11} (hk : k.val < 6) (b : Byte) :
    checksumSpan (frameWith f k b) = (checksumSpan f).set k b := by
  obtain ⟨k, hk11⟩ := k
  simp only [checksumSpan, frameWith_getElem]
  change k < 6 at hk
  interval_cases k <;> rfl

theorem checksumSpan_getElem (f : Frame) (k : Fin 11) (hk : k.val < (checksumSpan f).length) :
    (checksumSpan f)[k] = f[k] := by
  obtain ⟨k, hk11⟩ := k
  change k < 6 at hk
  interval_cases k <;> rfl

/-- With the default table a span's checksum is injective in the byte at each place: the step at that byte is, and so is every
later step in the running value (rule R62). -/
theorem eq_getElem_of_foldl_set_eq {k : Nat} {span : List Byte} (hk : k < span.length) {b : Byte} {rv : Byte}
    (h : (span.set k b).foldl (crc8Step defaultCrcTable) rv = span.foldl (crc8Step defaultCrcTable) rv) : b = span[k] := by
  induction span generalizing k rv with
  | nil => cases hk
  | cons x span ih =>
    cases k with
    | zero => exact crc8Step_default_injective_byte rv (foldl_crc8Step_default_injective span h)
    | succ k => exact ih (Nat.lt_of_succ_lt_succ hk) h

/-- A payload pair that is not complementary is a `PayloadMismatch`, whatever the other bytes (rule R60). -/
theorem exec_decode_of_pair_ne {g : Frame} (s : State) (h : g[4] ^^^ g[5] ≠ 0xFF) :
    exec (.decode g) s = .next { s with out := { status := some .payloadMismatch } } := by
  rw [decodeChecksThenExtracts g s, if_pos h]

/-- A byte exclusive-or a single bit differs from what it was. -/
theorem xor_bit_ne (v : Byte) (j : Fin 8) : v ^^^ (1#8 <<< j.val) ≠ v := by
  have hbit : ∀ j : Fin 8, 1#8 <<< j.val ≠ 0 := by decide
  intro h
  refine hbit j (BitVec.xor_right_inj v |>.mp ?_)
  rw [h]
  exact BitVec.xor_zero.symm

/-- Settles O33: a flipped bit of the pair flips that bit of its exclusive OR, which was 0xFF; the checksum byte enters the second
check alone. -/
theorem corruptionIsReportedByKind : Obligations.CorruptionIsReportedByKind := by
  rintro f s ⟨hcomp, hsum⟩
  refine ⟨fun k j hk => exec_decode_of_pair_ne s ?flipped, fun g => exec_decode_of_pair_ne s, fun b hb => ?checksum⟩
  case flipped =>
    have hflip : f[4] ^^^ f[5] ^^^ (1#8 <<< j.val) ≠ 0xFF := hcomp ▸ xor_bit_ne (f[4] ^^^ f[5]) j
    rcases hk with rfl | rfl
    · rw [BitVec.xor_assoc, BitVec.xor_comm f[5], ← BitVec.xor_assoc] at hflip
      simpa [frameWith_getElem] using hflip
    · rw [BitVec.xor_assoc] at hflip
      simpa [frameWith_getElem] using hflip
  case checksum =>
    rw [decodeChecksThenExtracts]
    simp [frameWith_getElem, hcomp, hsum, hb.symm]

section unprotected
variable {f g : Frame} (h : ∀ k : Fin 11, k.val < 7 → g[k] = f[k])
include h

/-- Whether a frame is valid is read from offsets 0 to 6. -/
theorem validFrame_congr (T : CrcTable) : ValidFrame T g ↔ ValidFrame T f := by
  have hbyte : ∀ j (hj : j < 7), g[j] = f[j] := fun j hj => h ⟨j, by omega⟩ hj
  simp (disch := decide) only [ValidFrame, hbyte]

/-- The network and the payload of a frame are read from offsets 0 to 4. -/
theorem messageOfFrame_of_protected_eq :
    messageOfFrame g = { messageOfFrame f with deviceId := g[7] ++ g[8] ++ g[9] ++ g[10] } := by
  have hbyte : ∀ j (hj : j < 7), g[j] = f[j] := fun j hj => h ⟨j, by omega⟩ hj
  simp (disch := decide) only [messageOfFrame, hbyte, unbe32]

end unprotected

/-- DECODE of a valid frame delivers the frame's Message. -/
theorem exec_decode_of_valid {f : Frame} {s : State} (h : ValidFrame s.params.crcTable f) :
    exec (.decode f) s = .next { s with out := { status := some .ok, message := some (messageOfFrame f) } } :=
  exec_decode_message (decodeFrame_of_valid h)

/-- Settles O34: validity, and every field but `device_id`, are read from offsets 0 to 6. -/
theorem deviceIdIsNotProtected : Obligations.DeviceIdIsNotProtected := by
  intro f g s hvalid hsame
  refine ⟨messageOfFrame f, exec_decode_of_valid hvalid, ?_⟩
  rw [exec_decode_of_valid ((validFrame_congr hsame _).mpr hvalid), messageOfFrame_of_protected_eq hsame]

/-- With the default table a change of one byte at offsets 0 to 5 of a valid frame leaves none that is valid: the checksum byte
still names the old span's checksum (rule R62). -/
theorem not_validFrame_frameWith {f : Frame} (hf : ValidFrame defaultCrcTable f) {k : Fin 11} (hk : k.val < 6) {b : Byte}
    (hb : b ≠ f[k]) : ¬ ValidFrame defaultCrcTable (frameWith f k b) := by
  rintro ⟨_, hchanged⟩
  obtain ⟨_, hsum⟩ := hf
  have hlast : (frameWith f k b)[6] = f[6] := by rw [frameWith_getElem, if_neg (by omega)]
  have hspans : crc8 defaultCrcTable ((checksumSpan f).set k b) = crc8 defaultCrcTable (checksumSpan f) := by
    rw [← checksumSpan_frameWith f hk]
    exact (hchanged.trans hlast).trans hsum.symm
  exact hb ((eq_getElem_of_foldl_set_eq hk hspans).trans (checksumSpan_getElem f k hk))

/-- Settles O35: a complementary pair passes the first check and leaves the decision to the second; with the default table no
single changed byte of the span leaves the frame valid, so DECODE reports an error. -/
theorem singleByteChangesAreDetected : Obligations.SingleByteChangesAreDetected := by
  intro f s hvalid
  constructor
  · intro p
    rw [decodeChecksThenExtracts]
    simp [frameWith_getElem]
  · intro htable k b hk hb
    rw [htable] at hvalid
    have hbad : ¬ ValidFrame s.params.crcTable (frameWith f k b) := htable ▸ not_validFrame_frameWith hvalid hk hb
    refine ⟨_, frameErrorChangesOnlyStatus _ 0 s _ (.inl rfl) hbad, ?_⟩
    split
    · exact .inr rfl
    · exact .inl rfl

end Sys2Proof.Machine

/-! ### Proofs: what an operation reads (rules R20, R32) -/

namespace Sys2Proof.Machine

/-- No operation reads the host's further inputs: with others in their place it leaves the same state but for them. -/
theorem exec_withPending {i : Instr} {s t : State} (h : exec i s = .next t) (inputs : List HostInput) :
    exec i { s with pending := inputs } = .next { t with pending := inputs } := by
  cases i with
  | crc8 span => cases h; rfl
  | encode n d p => cases h; rfl
  | decode f => rw [exec_decode] at h ⊢; cases h; rfl
  | dedup m u => cases h; rfl
  | recv f u =>
    cases hdec : decodeFrame s.params.crcTable f with
    | message m => rw [exec_recv_message hdec] at h; cases h; exact exec_recv_message hdec
    | error e => rw [exec_recv_error hdec] at h; cases h; exact exec_recv_error hdec
  | frame f => cases h

/-- Two states with the same DedupState and parameters: the operation leaves the second as it leaves the first, but for the
host's further inputs (rule R20). -/
theorem exec_congr {i : Instr} {s₁ s₂ t : State} (hds : s₁.ds = s₂.ds) (hparams : s₁.params = s₂.params)
    (h : exec i s₁ = .next t) : exec i s₂ = .next { t with pending := s₂.pending } := by
  have hstate : s₂ = { s₁ with pending := s₂.pending }.deliver s₂.out := by
    rw [State.deliver, hds, hparams]
  rw [hstate, exec_deliver]
  exact exec_withPending h s₂.pending

/-- Settles O10: the second state differs from the first in the outputs and in the host's further inputs alone. -/
theorem resultsDependOnlyOnOperandsParametersAndDedupState :
    Obligations.ResultsDependOnlyOnOperandsParametersAndDedupState := by
  intro i s₁ s₂ t₁ hds hparams h
  exact ⟨_, exec_congr hds hparams h, rfl, rfl, rfl, rfl⟩

/-! #### Running operations (rule R32) -/

/-- A run whose first operation has a next state is that step followed by the rest of the run. -/
theorem runOperations_cons {i : Instr} {s t : State} (h : exec i s = .next t) (rest : List Instr) :
    runOperations (i :: rest) s = (runOperations rest t).map fun r => (t.out :: r.1, r.2) := by
  simp only [runOperations, h]

theorem runOperations_cons_of {i : Instr} {rest : List Instr} {s t u : State} {outs : List Outputs}
    (h : exec i s = .next t) (hrest : runOperations rest t = some (outs, u)) :
    runOperations (i :: rest) s = some (t.out :: outs, u) := by
  rw [runOperations_cons h, hrest, Option.map_some]

/-- A run that goes through takes its first operation's step and goes through from there. -/
theorem runOperations_cons_inv {i : Instr} {rest : List Instr} {s u : State} {outs : List Outputs}
    (h : runOperations (i :: rest) s = some (outs, u)) :
    ∃ t outs', exec i s = .next t ∧ runOperations rest t = some (outs', u) ∧ outs = t.out :: outs' := by
  cases hexec : exec i s with
  | next t =>
    rw [runOperations_cons hexec, Option.map_eq_some_iff] at h
    obtain ⟨⟨outs', u'⟩, hrest, heq⟩ := h
    cases heq
    exact ⟨t, outs', rfl, hrest, rfl⟩
  | fault r => simp [runOperations, hexec] at h
  | refused r => simp [runOperations, hexec] at h

/-- Two runs one after the other. -/
theorem runOperations_append {p q : List Instr} {s t u : State} {outs₁ outs₂ : List Outputs}
    (hp : runOperations p s = some (outs₁, t)) (hq : runOperations q t = some (outs₂, u)) :
    runOperations (p ++ q) s = some (outs₁ ++ outs₂, u) := by
  induction p generalizing s outs₁ with
  | nil => cases hp; exact hq
  | cons i p ih =>
    obtain ⟨t', outs', hexec, hrest, rfl⟩ := runOperations_cons_inv hp
    exact runOperations_cons_of hexec (ih hrest)

/-- The host's inputs that issue a program. -/
def inputsOf (program : List Instr) : List HostInput :=
  program.map fun i => .word (encode i)

/-- A machine step on a program's first word is that operation, with the rest of the inputs left. -/
theorem step_encode {i : Instr} {s t : State} (h : exec i s = .next t) (inputs : List HostInput) :
    step { s with pending := .word (encode i) :: inputs } = .next { t with pending := inputs } := by
  rw [step_word rfl (decode_encode i)]
  exact exec_withPending h inputs

/-- A run whose first step has a next state goes on from there. -/
theorem core_run_succ {k : Nat} {s t : State} (h : step s = .next t) :
    Host.Core.run Sys2Proof.core (k + 1) s = Host.Core.run Sys2Proof.core k t := by
  have hcore : Sys2Proof.core.step s = .next t := h
  simp only [Host.Core.run, hcore]

/-- The machine on a program's words, with any inputs after them, by induction on the program. -/
theorem core_run_program {program : List Instr} {s t : State} {outs : List Outputs}
    (h : runOperations program s = some (outs, t)) (inputs : List HostInput) :
    Host.Core.run Sys2Proof.core program.length { s with pending := inputsOf program ++ inputs }
      = .next { t with pending := inputs } := by
  induction program generalizing s outs with
  | nil => cases h; rfl
  | cons i rest ih =>
    obtain ⟨u, outs', hexec, hrest, rfl⟩ := runOperations_cons_inv h
    exact (core_run_succ (step_encode hexec (inputsOf rest ++ inputs))).trans (ih hrest)

/-- Running operations leaves the host's further inputs alone. -/
theorem runOperations_pending {program : List Instr} {s t : State} {outs : List Outputs}
    (h : runOperations program s = some (outs, t)) : t.pending = s.pending := by
  induction program generalizing s outs with
  | nil => cases h; rfl
  | cons i rest ih =>
    obtain ⟨u, outs', hexec, hrest, rfl⟩ := runOperations_cons_inv h
    rw [ih hrest, exec_pending hexec]

/-- Settles O9: the inputs after the program's words are those the run starts with and leaves. -/
theorem programRunsInIssueOrder : Obligations.ProgramRunsInIssueOrder := by
  intro program s t outs h
  have hrun := core_run_program h s.pending
  rw [← runOperations_pending h] at hrun ⊢
  exact hrun

/-! #### Noise (rules R13, R88) -/

theorem leavesDedupStateAlone_recv_iff (T : CrcTable) (f : Frame) (u : Time) :
    leavesDedupStateAlone T (.recv f u) = true ↔ ¬ ValidFrame T f := by
  rw [validFrame_iff, leavesDedupStateAlone, Bool.not_eq_true', ← Bool.not_eq_true, Bool.and_eq_true]

/-- Only DEDUP and RECV of a valid frame make a transition of the deduplicator: anything else leaves DedupState and emits nothing
(rules R13, R88). -/
theorem exec_noise {i : Instr} {s t : State} (h : exec i s = .next t)
    (hnoise : leavesDedupStateAlone s.params.crcTable i = true) : t.ds = s.ds ∧ t.out.event = none := by
  rcases exec_cases h with ⟨o, rfl, hevent, _⟩ | ⟨m, u, st, _, ⟨rfl, _⟩ | ⟨f, rfl, hvalid, _⟩⟩
  · exact ⟨rfl, hevent⟩
  · simp [leavesDedupStateAlone] at hnoise
  · exact absurd hvalid ((leavesDedupStateAlone_recv_iff _ f u).mp hnoise)

/-- Striking noise out of a run, from any state with the same DedupState and parameters: a struck operation changes neither, and a
kept one makes the same step from both states. -/
theorem runOperations_filter_noise (T : CrcTable) {program : List Instr} {s s' t : State} {outs : List Outputs}
    (hds : s'.ds = s.ds) (hparams : s'.params = s.params) (htable : s.params.crcTable = T)
    (h : runOperations program s = some (outs, t)) :
    ∃ outs' t', runOperations (program.filter fun i => !leavesDedupStateAlone T i) s' = some (outs', t')
      ∧ t'.ds = t.ds ∧ outs'.filterMap (·.event) = outs.filterMap (·.event) := by
  induction program generalizing s s' outs with
  | nil => cases h; exact ⟨[], s', rfl, hds, rfl⟩
  | cons i rest ih =>
    obtain ⟨u, outs₁, hexec, hrest, rfl⟩ := runOperations_cons_inv h
    have huparams := exec_params hexec
    have hutable : u.params.crcTable = T := by rw [huparams, htable]
    by_cases hnoise : leavesDedupStateAlone T i = true
    case pos =>
      obtain ⟨huds, hevent⟩ := exec_noise hexec (htable ▸ hnoise)
      obtain ⟨outs', t', hrun, htds, hevents⟩ := ih (hds.trans huds.symm) (hparams.trans huparams.symm) hutable hrest
      exact ⟨outs', t', by rw [List.filter_cons_of_neg (by simp [hnoise]), hrun], htds,
        by rw [hevents, List.filterMap_cons_none hevent]⟩
    case neg =>
      have hexec' := exec_congr hds.symm hparams.symm hexec
      obtain ⟨outs', t', hrun, htds, hevents⟩ := ih (s := u) (s' := { u with pending := s'.pending }) rfl rfl hutable hrest
      refine ⟨u.out :: outs', t', ?_, htds, ?_⟩
      · rw [List.filter_cons_of_pos (by simp [hnoise])]
        exact runOperations_cons_of (t := { u with pending := s'.pending }) hexec' hrun
      · rw [List.filterMap_cons, List.filterMap_cons, hevents]

/-- Settles O52: both runs start from the same state. -/
theorem noiseIsInvisibleToDeduplicator : Obligations.NoiseIsInvisibleToDeduplicator := by
  intro program s t outs h
  exact runOperations_filter_noise s.params.crcTable rfl rfl rfl h

end Sys2Proof.Machine

/-! ### Proofs: the deduplicator's emission and the machine's invariant (rules R13, R15, R77, R79, R101, R112) -/

namespace Sys2Proof.Machine

/-! #### What a transition of the deduplicator emits and keeps -/

section dedupStep
variable {timeW countW : Nat} {P : Parameters timeW countW} {ds : DedupState timeW countW} {m : Message} {t : BitVec timeW}

/-- An event comes of a same-event transition alone, of the one whose count becomes `MIN_REPEATS`, and carries the tracked identity
(rules R77, R79). -/
theorem dedupStep_event {e : Event} (h : (dedupStep P ds m t).2 = some e) :
    ds.valid = true ∧ ds.count.toNat + 1 = P.minRepeats.toNat ∧ e = trackedEvent ds
      ∧ (dedupStep P ds m t).1 = sameEventTransition ds t := by
  cases hsame : isSameEvent P.timeout ds m t with
  | false => simp [dedupStep_new hsame] at h
  | true =>
    obtain ⟨hvalid, _⟩ := (isSameEvent_iff _ _ _ _).mp hsame
    rw [dedupStep_same hsame] at h ⊢
    obtain ⟨hthreshold, he⟩ := Option.ite_none_right_eq_some.mp h
    exact ⟨hvalid, (reachesThreshold_iff P ds.count).mp hthreshold, (Option.some.inj he).symm, rfl⟩

/-- A legal threshold is within the counter's range, so the count that becomes it is not saturated. -/
theorem saturatingIncrement_eq_minRepeats {c : BitVec countW} (h : c.toNat + 1 = P.minRepeats.toNat) :
    saturatingIncrement c = P.minRepeats := by
  have hlt := P.minRepeats.isLt
  refine BitVec.eq_of_toNat_eq ?_
  rw [saturatingIncrement_toNat]
  omega

/-- A count of 1 is within the counter's range, since a legal threshold is. -/
theorem one_toNat_of_legal (P : Parameters timeW countW) : (1 : BitVec countW).toNat = 1 := by
  have hlegal := P.legal
  have hlt := P.minRepeats.isLt
  change (BitVec.ofNat countW 1).toNat = 1
  rw [BitVec.toNat_ofNat, Nat.mod_eq_of_lt (by omega)]

/-- The count after a transition: 1 with no emission, or not below what it was. -/
theorem dedupStep_count (P : Parameters timeW countW) (ds : DedupState timeW countW) (m : Message) (t : BitVec timeW) :
    ((dedupStep P ds m t).1.count = 1 ∧ (dedupStep P ds m t).2 = none)
      ∨ (ds.count.toNat ≤ (dedupStep P ds m t).1.count.toNat ∧ 1 ≤ (dedupStep P ds m t).1.count.toNat) := by
  cases hsame : isSameEvent P.timeout ds m t with
  | false =>
    rw [dedupStep_new hsame]
    exact .inl ⟨rfl, rfl⟩
  | true =>
    have hlegal := P.legal
    have hlt := P.minRepeats.isLt
    have hcount := ds.count.isLt
    rw [dedupStep_same hsame, sameEventTransition_count, saturatingIncrement_toNat]
    exact .inr (by omega)

/-- A transition leaves a tracked Message seen at least once, from any DedupState. -/
theorem dedupStep_inv (P : Parameters timeW countW) (ds : DedupState timeW countW) (m : Message) (t : BitVec timeW) :
    (dedupStep P ds m t).1.Inv := by
  refine ⟨fun _ => ?_, fun hempty => ?_⟩
  · rcases dedupStep_count P ds m t with ⟨hone, _⟩ | ⟨_, hpos⟩
    · rw [hone, one_toNat_of_legal P]
    · exact hpos
  · rw [dedupStep_valid] at hempty
    contradiction

end dedupStep

/-! #### The operations that write DedupState, and those that emit (rules R13, R105) -/

/-- Settles O18: what makes no transition leaves DedupState. -/
theorem onlyDedupAndValidRecvWriteSlot : Obligations.OnlyDedupAndValidRecvWriteSlot := by
  intro i s t h hne
  rcases exec_cases h with ⟨o, rfl, _⟩ | ⟨m, u, st, _, ⟨rfl, _⟩ | ⟨f, rfl, hvalid, _⟩⟩
  · exact absurd (State.deliver_ds s o) hne
  · exact .inl ⟨m, u, rfl⟩
  · exact .inr ⟨f, u, rfl, hvalid⟩

/-- Settles O19: an event is that of a transition of the deduplicator, DEDUP's beside no status and RECV's beside `OK`. -/
theorem eventOnlyWhenCountBecomesThreshold : Obligations.EventOnlyWhenCountBecomesThreshold := by
  intro i s t e h hevent
  rcases exec_cases h with ⟨o, rfl, hnone, _⟩ | ⟨m, u, st, rfl, hi⟩
  · rw [State.deliver_out, hnone] at hevent
    cases hevent
  · obtain ⟨hvalid, hcount, rfl, hds⟩ := dedupStep_event hevent
    have hstatus : st = none ∨ st = some .ok := by
      rcases hi with ⟨_, rfl⟩ | ⟨_, _, _, _, rfl⟩
      · exact .inl rfl
      · exact .inr rfl
    have hop : (∃ m u, i = .dedup m u) ∨ ∃ f u, i = .recv f u := by
      rcases hi with ⟨rfl, _⟩ | ⟨f, rfl, _⟩
      · exact .inl ⟨m, u, rfl⟩
      · exact .inr ⟨f, u, rfl⟩
    simp only [State.deliver_ds, State.deliver_out, hds]
    refine ⟨hop, hvalid, hcount, saturatingIncrement_eq_minRepeats hcount, rfl, rfl, rfl, rfl, ?_⟩
    rcases hstatus with rfl | rfl <;> simp

/-! #### The invariant (rule R15) -/

theorem DedupState.inv_empty (timeW countW : Nat) : (DedupState.empty timeW countW).Inv :=
  ⟨nofun, fun _ => rfl⟩

/-- Outputs that deliver nothing fit every state. -/
theorem State.outputsSound_of_out_eq_empty {s : State} (h : s.out = {}) : s.OutputsSound := by
  constructor <;> simp [h]

/-- Reset establishes the invariant from any state. -/
theorem State.inv_applyReset (s : State) : s.applyReset.Inv :=
  ⟨DedupState.inv_empty _ _, outputsSound_of_out_eq_empty rfl⟩

/-- Settles O15: the reset state's slot is empty and nothing is delivered. -/
theorem resetStateIsSound : Obligations.ResetStateIsSound :=
  ⟨DedupState.inv_empty _ _, State.outputsSound_of_out_eq_empty rfl⟩

/-- Settles O12: the reset state's fields, with the legality its parameters carry. -/
theorem resetStateIsEmptySlot : Obligations.ResetStateIsEmptySlot :=
  ⟨rfl, rfl, State.reset.params.legal, rfl, rfl⟩

/-- Every operation leaves outputs that fit the state it leaves, whatever state it finds. -/
theorem exec_outputsSound {i : Instr} {s t : State} (h : exec i s = .next t) : t.OutputsSound := by
  constructor
  · intro e hevent
    obtain ⟨_, hvalid, hcount, hthreshold, rfl, hnet, hdev, hpay, hpayload, hchecksum⟩ :=
      eventOnlyWhenCountBecomesThreshold i s t e h hevent
    refine ⟨exec_valid h hvalid, ?_, hthreshold.trans (congrArg _ (exec_params h).symm), ?_⟩
    · rw [trackedEvent, hnet, hdev, hpay]
    · rcases hstatus : t.out.status with _ | _ | _ | _
      · exact .inl rfl
      · exact .inr rfl
      · exact absurd hstatus hpayload
      · exact absurd hstatus hchecksum
  · rcases exec_cases h with ⟨o, rfl, _, hmessage⟩ | ⟨m, u, st, rfl, _⟩
    · exact hmessage
    · exact nofun

/-- Every operation keeps DedupState's invariant: it leaves the slot or makes a transition. -/
theorem exec_dedupState_inv {i : Instr} {s t : State} (h : exec i s = .next t) (hinv : s.ds.Inv) : t.ds.Inv := by
  rcases exec_cases h with ⟨o, rfl, _⟩ | ⟨m, u, st, rfl, _⟩
  · exact hinv
  · exact dedupStep_inv ..

/-- Settles O14: reset establishes the invariant anew; an operation keeps the slot's part and writes outputs that fit. -/
theorem stepKeepsSoundStates : Obligations.StepKeepsSoundStates := by
  rintro s t ⟨hds, _⟩ hstep
  rcases step_cases hstep with ⟨rest, _, rfl⟩ | ⟨w, rest, i, _, _, hexec⟩
  · exact State.inv_applyReset _
  · exact ⟨exec_dedupState_inv hexec hds, exec_outputsSound hexec⟩

/-- Settles O16: a step other than reset is an operation, and only a transition of the deduplicator touches the count. -/
theorem trackedUntilResetAndCountDropsOnlyToOne : Obligations.TrackedUntilResetAndCountDropsOnlyToOne := by
  intro s t hstep hvalid hnoreset
  rcases step_cases hstep with ⟨rest, hpending, _⟩ | ⟨w, rest, i, _, _, hexec⟩
  · exact absurd (by rw [hpending, List.head?_cons]) hnoreset
  refine ⟨exec_valid hexec hvalid, fun hdrop => ?_⟩
  rcases exec_cases hexec with ⟨o, rfl, _⟩ | ⟨m, u, st, rfl, _⟩
  · exact absurd hdrop (lt_irrefl _)
  · rcases dedupStep_count s.params s.ds m u with ⟨hone, hnone⟩ | ⟨hge, _⟩
    · exact ⟨hone, Option.isSome_eq_false_iff.mpr (Option.isNone_iff_eq_none.mpr hnone)⟩
    · exact absurd hdrop (Nat.not_lt.mpr hge)

/-! #### After reset (rule R112) -/

theorem not_sameEvent_of_empty {s : State} (h : s.ds.valid = false) (m : Message) (t : Time) : ¬ SameEvent s m t := by
  intro hsame
  rw [hsame.valid] at h
  contradiction

/-- Settles O40: an empty slot is no same event, whatever its other fields. -/
theorem emptySlotMatchesNothing : Obligations.EmptySlotMatchesNothing :=
  fun m t _ hempty => exec_dedup_of_not_sameEvent (not_sameEvent_of_empty hempty m t)

/-- Settles O13: reset leaves an empty slot, so the next Message is a new event; RECV of an encoded Message makes the same
transition as DEDUP of it. -/
theorem resetInputEmptiesSlot : Obligations.ResetInputEmptiesSlot := by
  intro s rest hpending
  have hnew : ∀ m t, exec (.dedup m t) (State.applyReset { s with pending := rest }) = .next (afterNewEvent _ m t) :=
    fun m t => emptySlotMatchesNothing m t _ rfl
  refine ⟨_, step_reset hpending, rfl, rfl, rfl, rfl, hnew, fun n d p t => ?_⟩
  exact ⟨_, exec_recv_of_exec_dedup (decodeFrame_buildFrame _ n d p) (hnew ⟨n, d, p⟩ t), rfl, rfl⟩

/-! #### Configurations (rule R86 (a); decision D10) -/

/-- The boundary's check of a configuration, in numbers. -/
theorem configurationWellFormed_iff (timeout minRepeats : Nat) :
    configurationWellFormed timeout minRepeats = true ↔ timeout < 2 ^ 32 ∧ 2 ≤ minRepeats ∧ minRepeats ≤ 65535 := by
  simp only [configurationWellFormed, Bool.and_eq_true, decide_eq_true_eq, two_pow_timeW, two_pow_countW]
  omega

/-- Settles O8: a value in its range is unchanged by its width, so a legal threshold stays legal. -/
theorem configurationTakenExactlyInLegalRange : Obligations.ConfigurationTakenExactlyInLegalRange := by
  intro T timeout minRepeats
  simp only [← configurationWellFormed_iff]
  refine ⟨fun hlegal => ?_, fun hillegal => if_neg hillegal⟩
  obtain ⟨htimeout, hmin, hmax⟩ := (configurationWellFormed_iff _ _).mp hlegal
  have hrepeats : (BitVec.ofNat Config.countW minRepeats).toNat = minRepeats := by
    rw [BitVec.toNat_ofNat, two_pow_countW, Nat.mod_eq_of_lt (by omega)]
  exact ⟨_, (if_pos hlegal).trans (dif_pos (hrepeats.symm ▸ hmin)), rfl,
    (BitVec.toNat_ofNat ..).trans (Nat.mod_eq_of_lt htimeout), hrepeats⟩

end Sys2Proof.Machine

/-! ### Proofs: sequences of arrivals (rules R81 to R86) and the receive path (rule R96) -/

namespace Sys2Proof.Machine

/-! #### The corners of the window and of the counter (rules R81, R86, R119) -/

/-- Settles O43: with the window 0 the gap must be 0, with the largest window no gap is past it. -/
theorem cornerWindows : Obligations.CornerWindows := by
  rintro m t s hvalid rfl
  have hsame := sameEvent_tracked_iff hvalid t
  constructor
  · intro hzero
    have hgap : (t - s.ds.last).toNat ≤ s.params.timeout.toNat ↔ t = s.ds.last := by
      rw [hzero]
      change _ ≤ 0 ↔ _
      rw [Nat.le_zero, ← sub_eq_zero (a := t)]
      exact BitVec.toNat_inj (y := 0)
    split
    case isTrue heq => exact exec_dedup_of_sameEvent (hsame.mpr (hgap.mpr heq))
    case isFalse hne => exact exec_dedup_of_not_sameEvent (hsame.not.mpr (hgap.not.mpr hne))
  · intro hlargest
    refine exec_dedup_of_sameEvent (hsame.mpr ?_)
    rw [hlargest]
    exact Nat.le_of_lt_succ (time_lt _)

/-- Settles O44: at 65535 the increment saturates, and no threshold is 65536. -/
theorem saturatedCounterStaysSilent : Obligations.SaturatedCounterStaysSilent := by
  intro m t s hsame hmax
  have hlegal := s.params.legal
  have hlt := count_lt s.params.minRepeats
  have hsilent : ¬ s.ds.count.toNat = s.params.minRepeats.toNat - 1 := by
    rw [hmax]
    change ¬ 65535 = _
    omega
  have hstays : BitVec.ofNat 16 (min (s.ds.count.toNat + 1) (2 ^ 16 - 1)) = s.ds.count := by
    rw [hmax]
    rfl
  rw [exec_dedup_of_sameEvent hsame, afterSameEvent, if_neg hsilent, hstays]

/-! #### The receive path (rule R96) -/

/-- Settles O51: both operations decode the frame; an error leaves DedupState with both, and a Message is what RECV presents to the
deduplicator, whose transition does not read DECODE's outputs. -/
theorem recvEqualsDecodeThenDedup : Obligations.RecvEqualsDecodeThenDedup := by
  intro b t s
  cases hdec : decodeFrame s.params.crcTable b with
  | message m =>
    refine ⟨_, _, exec_decode_message hdec, exec_recv_message hdec, rfl, ?_, nofun⟩
    rintro m' hm
    cases hm
    exact ⟨_, exec_dedup m t _, rfl, rfl, rfl⟩
  | error e => exact ⟨_, _, exec_decode_error hdec, exec_recv_error hdec, rfl, nofun, fun _ => ⟨rfl, rfl⟩⟩

/-! #### The unbounded counter (rule R81) -/

/-- A deduplicator with an unbounded counter makes each transition with the machine's, and emits with it: a count that the narrow
counter does not hold is past every threshold. -/
theorem present_simulates {d : WideDedup} {s : State} (h : d.Agrees s.ds) (m : Message) (t : Time) :
    ∃ u, exec (.dedup m t) s = .next u ∧ u.params = s.params
      ∧ emitBit u.out = (d.present s.params.timeout s.params.minRepeats.toNat m t).2
      ∧ (d.present s.params.timeout s.params.minRepeats.toNat m t).1.Agrees u.ds := by
  obtain ⟨hvalid, hnet, hdev, hpay, hlast, hcount⟩ := h
  rw [two_pow_countW] at hcount
  have htest : (d.valid = true ∧ m.networkId = d.net ∧ m.deviceId = d.dev ∧ m.payload = d.pay
      ∧ (t - d.last).toNat ≤ s.params.timeout.toNat) ↔ SameEvent s m t := by
    rw [SameEvent, hvalid, hnet, hdev, hpay, hlast]
  rw [WideDedup.present]
  by_cases hsame : SameEvent s m t
  case pos =>
    have hlegal := s.params.legal
    have hlt := count_lt s.params.minRepeats
    rw [if_pos (htest.mpr hsame)]
    refine ⟨_, exec_dedup_of_sameEvent hsame, rfl, ?emission, hvalid, hnet, hdev, hpay, rfl, ?count⟩
    case emission =>
      rw [emitBit_afterSameEvent, Bool.eq_iff_iff, decide_eq_true_iff, beq_iff_eq]
      omega
    case count =>
      rw [afterSameEvent_count_toNat, two_pow_countW]
      change _ = min (d.count + 1) _
      omega
  case neg =>
    rw [if_neg (htest.not.mpr hsame)]
    exact ⟨_, exec_dedup_of_not_sameEvent hsame, rfl, rfl, rfl, rfl, rfl, rfl, rfl, rfl⟩

/-- Settles O45, by induction on the arrivals. -/
theorem unboundedCounterEmitsTheSame : Obligations.UnboundedCounterEmitsTheSame := by
  intro arrivals
  induction arrivals with
  | nil => exact fun s d h => ⟨[], s, rfl, rfl, h⟩
  | cons a rest ih =>
    intro s d h
    obtain ⟨u, hexec, hparams, hemit, hagrees⟩ := present_simulates h a.1 a.2
    obtain ⟨outs, t, hrun, houts, hfinal⟩ := ih u _ hagrees
    rw [hparams] at houts hfinal
    exact ⟨u.out :: outs, t, runOperations_cons_of hexec hrun, congrArg₂ List.cons hemit houts, hfinal⟩

/-! #### Streams of one Message (rules R82, R83, R84) -/

/-- A stream's emissions one by one: the first sighting makes the count `c + 1`. -/
theorem thresholdPattern_succ (minRepeats c n : Nat) :
    thresholdPattern minRepeats c (n + 1) = (c + 1 == minRepeats) :: thresholdPattern minRepeats (c + 1) n := by
  simp only [thresholdPattern, List.range_succ_eq_map, List.map_cons, List.map_map, Nat.add_zero]
  congr 1
  refine List.map_congr_left fun k _ => ?_
  rw [Function.comp_apply, Nat.succ_eq_add_one, Nat.add_right_comm c 1 k, Nat.add_assoc c k 1]

/-- Saturation does not show in the emissions: from 65535 on, no further sighting makes a threshold of the counter's width. -/
theorem thresholdPattern_saturated {minRepeats : Nat} (h : minRepeats < 65536) (c n : Nat) :
    thresholdPattern minRepeats (min c 65535) n = thresholdPattern minRepeats c n := by
  refine List.map_congr_left fun k _ => ?_
  rw [Bool.eq_iff_iff, beq_iff_eq, beq_iff_eq]
  omega

/-- The slot tracks the Message. -/
def State.Tracks (s : State) (m : Message) : Prop :=
  s.ds.valid = true ∧ m = ⟨s.ds.net, s.ds.dev, s.ds.pay⟩

/-- A tracked Message is the same event exactly within the window of the last sighting. -/
theorem State.Tracks.sameEvent_iff {s : State} {m : Message} (h : s.Tracks m) (t : Time) :
    SameEvent s m t ↔ (t - s.ds.last).toNat ≤ s.params.timeout.toNat := by
  obtain ⟨hvalid, rfl⟩ := h
  exact sameEvent_tracked_iff hvalid t

/-- Another Message than the tracked one is no same event, at any time. -/
theorem State.Tracks.not_sameEvent_of_ne {s : State} {m m' : Message} (h : s.Tracks m) (hne : m' ≠ m) (t : Time) :
    ¬ SameEvent s m' t := by
  rintro ⟨_, hnet, hdev, hpay, _⟩
  obtain ⟨_, rfl⟩ := h
  obtain ⟨n, d, p⟩ := m'
  cases hnet; cases hdev; cases hpay
  exact hne rfl

/-- A new event tracks its Message. -/
theorem afterNewEvent_tracks (s : State) (m : Message) (t : Time) : (afterNewEvent s m t).Tracks m :=
  ⟨rfl, rfl⟩

/-- What presenting one Message at each of the times does when the count before it is `c`: the emissions, the Message they carry,
and the slot it leaves, still tracking the Message. -/
structure Stream (s : State) (m : Message) (c : Nat) (times : List Time) (outs : List Outputs) (u : State) : Prop where
  run : runOperations (presentAt m times) s = some (outs, u)
  emits : outs.map emitBit = thresholdPattern s.params.minRepeats.toNat c times.length
  carries : ∀ o ∈ outs, ∀ e, o.event = some e → e = ⟨m.networkId, m.deviceId, m.payload⟩
  count : u.ds.count.toNat = min (c + times.length) 65535
  last : u.ds.last = lastTime s.ds.last times
  tracks : u.Tracks m
  params : u.params = s.params

/-- A stream longer by one at its beginning: a step that emits as the pattern says, and the stream from the state it leaves. -/
theorem Stream.cons {s v u : State} {m : Message} {c : Nat} {t : Time} {times : List Time} {outs : List Outputs}
    (hexec : exec (.dedup m t) s = .next v) (hlast : v.ds.last = t)
    (hemit : emitBit v.out = (c + 1 == s.params.minRepeats.toNat))
    (hcarries : ∀ e, v.out.event = some e → e = ⟨m.networkId, m.deviceId, m.payload⟩)
    (hrest : Stream v m (min (c + 1) 65535) times outs u) : Stream s m c (t :: times) (v.out :: outs) u where
  run := runOperations_cons_of hexec hrest.run
  emits := by
    rw [List.map_cons, hemit, hrest.emits, exec_params hexec, thresholdPattern_saturated (count_lt s.params.minRepeats),
      List.length_cons, thresholdPattern_succ]
  carries := List.forall_mem_cons.mpr ⟨hcarries, hrest.carries⟩
  count := by
    rw [hrest.count, List.length_cons]
    omega
  last := by rw [hrest.last, hlast, lastTime]
  tracks := hrest.tracks
  params := hrest.params.trans (exec_params hexec)

/-- A stream within the window of a tracked Message, by induction on its times: each sighting is the same event and leaves the
Message tracked, last seen then. -/
theorem stream_of_tracks {s : State} {m : Message} (htracks : s.Tracks m) {times : List Time}
    (hwindow : WithinWindow s.params.timeout s.ds.last times) : ∃ outs u, Stream s m s.ds.count.toNat times outs u := by
  induction times generalizing s with
  | nil =>
    have hcount : s.ds.count.toNat = min s.ds.count.toNat 65535 :=
      (min_eq_left (Nat.le_of_lt_succ (count_lt s.ds.count))).symm
    exact ⟨[], s, rfl, rfl, nofun, hcount, rfl, htracks, rfl⟩
  | cons t times ih =>
    obtain ⟨hfirst, hwindow⟩ := hwindow
    have hsame := (htracks.sameEvent_iff t).mpr hfirst
    obtain ⟨outs, u, hrest⟩ := ih (s := afterSameEvent s t) htracks hwindow
    rw [afterSameEvent_count_toNat] at hrest
    refine ⟨_, u, Stream.cons (exec_dedup_of_sameEvent hsame) rfl ?emit ?carries hrest⟩
    case emit =>
      have hlegal := s.params.legal
      rw [emitBit_afterSameEvent, Bool.eq_iff_iff, decide_eq_true_iff, beq_iff_eq]
      omega
    case carries =>
      obtain ⟨_, rfl⟩ := htracks
      intro e he
      exact (Option.some.inj (Option.ite_none_right_eq_some.mp he).2).symm

/-- A burst: a stream that starts with a new event counts from 0. -/
theorem stream_of_new {s : State} {m : Message} {t₀ : Time} {times : List Time} (hnew : ¬ SameEvent s m t₀)
    (hwindow : WithinWindow s.params.timeout t₀ times) : ∃ outs u, Stream s m 0 (t₀ :: times) outs u := by
  obtain ⟨outs, u, hrest⟩ := stream_of_tracks (afterNewEvent_tracks s m t₀) hwindow
  have hlegal := s.params.legal
  have hemit : false = (0 + 1 == s.params.minRepeats.toNat) := (beq_eq_false_iff_ne.mpr (by omega)).symm
  exact ⟨_, u, Stream.cons (exec_dedup_of_not_sameEvent hnew) rfl hemit nofun hrest⟩

/-- Settles O47: the count of the stream is the tracked one. -/
theorem liveSlotContinuesItsCount : Obligations.LiveSlotContinuesItsCount := by
  intro s m times hvalid hm hwindow
  obtain ⟨outs, u, hstream⟩ := stream_of_tracks ⟨hvalid, hm⟩ hwindow
  exact ⟨outs, u, hstream.run, hstream.emits, hstream.count, hstream.last⟩

/-- Settles O46: a burst is a stream that counts from 0. -/
theorem burstEmitsOnceAtThreshold : Obligations.BurstEmitsOnceAtThreshold := by
  intro s m t₀ times hnew hwindow
  obtain ⟨outs, u, hstream⟩ := stream_of_new hnew hwindow
  refine ⟨outs, u, hstream.run, hstream.emits, hstream.carries, ?_⟩
  rw [hstream.count, List.length_cons, Nat.zero_add]
  rfl

/-- Settles O48: after the first burst its Message is tracked, last seen at the burst's last time, so the second burst, past the
window, starts with a new event too. -/
theorem separatedBurstsAreTwoEvents : Obligations.SeparatedBurstsAreTwoEvents := by
  intro s m t₀ t₁ times₁ times₂ hnew hfirst hgap hsecond
  obtain ⟨outs₁, v, hburst₁⟩ := stream_of_new hnew hfirst
  have hnew₂ : ¬ SameEvent v m t₁ := by
    rw [hburst₁.tracks.sameEvent_iff, hburst₁.last, hburst₁.params]
    exact Nat.not_le.mpr hgap
  rw [← hburst₁.params] at hsecond
  obtain ⟨outs₂, u, hburst₂⟩ := stream_of_new hnew₂ hsecond
  refine ⟨outs₁ ++ outs₂, u, ?_, ?_⟩
  · rw [presentAt, List.map_append]
    exact runOperations_append hburst₁.run hburst₂.run
  · rw [List.map_append, hburst₁.emits, hburst₂.emits, hburst₁.params]
    rfl

/-! #### Interleaved Messages (rule R85) -/

/-- Each Message differing from the one before it, the first from the tracked one: every arrival is a new event, which emits nothing
and leaves the count 1. -/
theorem interleaved_of_tracks {arrivals : List (Message × Time)} {s : State} {m : Message} (htracks : s.Tracks m)
    (hone : s.ds.count = 1) (hdiffers : EachDiffers m arrivals) :
    ∃ outs u, runOperations (arrivals.map fun a => Instr.dedup a.1 a.2) s = some (outs, u)
      ∧ (∀ o ∈ outs, emitBit o = false) ∧ u.ds.count = 1 := by
  induction arrivals generalizing s m with
  | nil => exact ⟨[], s, rfl, by simp, hone⟩
  | cons a rest ih =>
    obtain ⟨hne, hdiffers⟩ := hdiffers
    obtain ⟨outs, u, hrun, hsilent, hcount⟩ := ih (afterNewEvent_tracks s a.1 a.2) rfl hdiffers
    have hexec := exec_dedup_of_not_sameEvent (htracks.not_sameEvent_of_ne hne a.2)
    exact ⟨_, u, runOperations_cons_of hexec hrun,
      List.forall_mem_cons.mpr ⟨emitBit_afterNewEvent s a.1 a.2, hsilent⟩, hcount⟩

/-- Settles O49: the first arrival is a new event and leaves its Message tracked. -/
theorem interleavedMessagesNeverEmit : Obligations.InterleavedMessagesNeverEmit := by
  intro s m t₀ arrivals hnew hdiffers
  obtain ⟨outs, u, hrun, hsilent, hcount⟩ := interleaved_of_tracks (afterNewEvent_tracks s m t₀) rfl hdiffers
  exact ⟨_, u, runOperations_cons_of (exec_dedup_of_not_sameEvent hnew) hrun,
    List.forall_mem_cons.mpr ⟨emitBit_afterNewEvent s m t₀, hsilent⟩, hcount⟩

end Sys2Proof.Machine
